-- ==== Sys2Proof/Word.lean ====
section
/-! DEFINITION. The words the spec computes with (00_scope R6, R7): bytes, 32-bit words and addresses,
24-bit byte counts, 16-bit port numbers. -/

namespace Sys2Proof

/-- One byte of memory, of a port or of a register lane. -/
abbrev Byte := BitVec 8

/-- `WORD`: an instruction word, an address, `dsp` (00_scope R6). Arithmetic wraps modulo 2^32 (R7). -/
abbrev Word := BitVec 32

/-- A 24-bit count or a 24-bit signed displacement (00_scope R7, 30_encoding R138). -/
abbrev Word24 := BitVec 24

/-- `PORT_BITS`: a guest I/O port number (00_scope R6). -/
abbrev Port := BitVec 16

/-- `ID_BITS`: a SCSI target id (00_scope R6). -/
abbrev TargetId := BitVec 4

end Sys2Proof
end

