-- ==== Sys2Proof/Syntax.lean ====
section
/-! DEFINITION. The instructions of spec/opcode_table.json, one constructor a row, with the operands of
30_encoding R132 to R138. Bits that those rules call ignored are no operands (log 13). -/

namespace Sys2Proof

/-- The alternate address of an I/O instruction (30_encoding R133) or the target of a Jump or Call
(30_encoding R135): absolute, or REL = 1, a signed displacement from the advanced `dsp`. -/
inductive Target where
  | abs (addr : Word)
  | rel (disp : Word24)
  deriving DecidableEq, Repr

/-- The memory address of a Load or Store (30_encoding R137): absolute, or DSAREL = 1. -/
inductive LsAddr where
  | abs (addr : Word)
  | dsaRel (off : Word24)
  deriving DecidableEq, Repr

/-- Where Select takes its target id from (30_encoding R133): the instruction, or TBL = 1, the word at a
signed offset from `dsa`. -/
inductive IdSource where
  | direct (id : TargetId)
  | table (off : Word24)
  deriving DecidableEq, Repr

/-- The flag bits of Set and Clear (30_encoding R133): CARRY 10, TRG 9 (no effect), ACK 6, ATN 3. -/
structure IoFlags where
  carry : Bool
  trg : Bool
  ack : Bool
  atn : Bool
  deriving DecidableEq, Repr

/-- The condition fields of a Transfer Control instruction (30_encoding R135): the enabled tests CT
(carry), CP (phase against `ph`), CD (`sfbr` against `data` under `mask`), and the polarity JT. -/
structure Cond where
  ct : Bool
  jt : Bool
  cd : Bool
  cp : Bool
  ph : BitVec 3
  mask : Byte
  data : Byte
  deriving DecidableEq, Repr

/-- The second operand of a read-modify-write instruction (30_encoding R134): the immediate, or USFBR = 1,
`sfbr`. -/
inductive RmSource where
  | imm (b : Byte)
  | sfbr
  deriving DecidableEq, Repr

/-- The operators of the register ALU (30_encoding R134, 43_regalu R210 to R217). -/
inductive AluOp where
  | mov | shl | or | xor | and | shr | add | adc
  deriving DecidableEq, Repr

/-- One constructor per row of spec/opcode_table.json, in the order of 30_encoding R139. -/
inductive Instr where
  /-- PAD, the zero word (40_dispatch R162). -/
  | pad
  /-- MOVE.IND: `MOVE n, PTR addr, WHEN ph` (41_block_move R182). -/
  | moveInd (ph : BitVec 3) (count : Word24) (ptr : Word)
  /-- MOVE.TBL: `MOVE FROM off, WHEN ph` (41_block_move R183). -/
  | moveTbl (ph : BitVec 3) (off : Word24)
  /-- MOVE: `MOVE n, addr, WHEN ph` (41_block_move R181). -/
  | move (ph : BitVec 3) (count : Word24) (addr : Word)
  /-- SELECT (42_io R191). -/
  | select (atn : Bool) (id : IdSource) (alt : Target)
  /-- WAIT_DISCONNECT (42_io R192); `tbl` is the table offset when TBL = 1. -/
  | waitDisconnect (tbl : Option Word24) (alt : Target)
  /-- WAIT_RESELECT (42_io R193). -/
  | waitReselect (tbl : Option Word24) (alt : Target)
  /-- SET (42_io R194). -/
  | set (flags : IoFlags) (tbl : Option Word24) (alt : Target)
  /-- CLEAR (42_io R195). -/
  | clear (flags : IoFlags) (tbl : Option Word24) (alt : Target)
  /-- MOV.FS (43_regalu R230). -/
  | movFs (reg imm : Byte)
  /-- SHL.FS (43_regalu R231). -/
  | shlFs (reg imm : Byte)
  /-- OR.FS (43_regalu R232). -/
  | orFs (reg imm : Byte)
  /-- XOR.FS (43_regalu R233). -/
  | xorFs (reg imm : Byte)
  /-- AND.FS (43_regalu R234). -/
  | andFs (reg imm : Byte)
  /-- SHR.FS (43_regalu R235). -/
  | shrFs (reg imm : Byte)
  /-- ADD.FS (43_regalu R236). -/
  | addFs (reg imm : Byte)
  /-- ADC.FS (43_regalu R237). -/
  | adcFs (reg imm : Byte)
  /-- MOV.TS (43_regalu R238). -/
  | movTs (reg imm : Byte)
  /-- SHL.TS (43_regalu R239). -/
  | shlTs (reg imm : Byte)
  /-- OR.TS (43_regalu R240). -/
  | orTs (reg imm : Byte)
  /-- XOR.TS (43_regalu R241). -/
  | xorTs (reg imm : Byte)
  /-- AND.TS (43_regalu R242). -/
  | andTs (reg imm : Byte)
  /-- SHR.TS (43_regalu R243). -/
  | shrTs (reg imm : Byte)
  /-- ADD.TS (43_regalu R244). -/
  | addTs (reg imm : Byte)
  /-- ADC.TS (43_regalu R245). -/
  | adcTs (reg imm : Byte)
  /-- MOV.RM (43_regalu R246). -/
  | movRm (reg : Byte) (src : RmSource)
  /-- SHL.RM (43_regalu R247). -/
  | shlRm (reg : Byte) (src : RmSource)
  /-- OR.RM (43_regalu R248). -/
  | orRm (reg : Byte) (src : RmSource)
  /-- XOR.RM (43_regalu R249). -/
  | xorRm (reg : Byte) (src : RmSource)
  /-- AND.RM (43_regalu R250). -/
  | andRm (reg : Byte) (src : RmSource)
  /-- SHR.RM (43_regalu R251). -/
  | shrRm (reg : Byte) (src : RmSource)
  /-- ADD.RM (43_regalu R252). -/
  | addRm (reg : Byte) (src : RmSource)
  /-- ADC.RM (43_regalu R253). -/
  | adcRm (reg : Byte) (src : RmSource)
  /-- TC.ILLEGAL: Transfer Control with OPC = 4 + `opc` (44_transfer_control R268). -/
  | tcIllegal (opc : BitVec 2)
  /-- NOP (44_transfer_control R262). -/
  | nop
  /-- JUMP (44_transfer_control R264). -/
  | jump (c : Cond) (target : Target)
  /-- CALL (44_transfer_control R265). -/
  | call (c : Cond) (target : Target)
  /-- RETURN (44_transfer_control R266). -/
  | ret (c : Cond)
  /-- INT (44_transfer_control R267). -/
  | int (c : Cond) (vector : Word)
  /-- INTFLY (44_transfer_control R267). -/
  | intfly (c : Cond) (vector : Word)
  /-- MOVE_MEMORY (45_memory_move R281); `dst` is the third word. -/
  | moveMemory (count : Word24) (src dst : Word)
  /-- LOAD (45_memory_move R282). -/
  | load (reg : Byte) (n : BitVec 3) (addr : LsAddr)
  /-- STORE (45_memory_move R283). -/
  | store (reg : Byte) (n : BitVec 3) (addr : LsAddr)
  deriving DecidableEq, Repr

end Sys2Proof
end

