-- ==== Sys2Proof/WellFormed.lean ====
section
/-! DEFINITION. Which terms of `Instr` some encoding stands for. Every operand has the width of its field,
so two checks remain: a Transfer Control condition is not the NOP pattern (44_transfer_control R262), and
the flag bits of a Set or Clear whose table offset shares them agree with it (30_encoding R133). -/

namespace Sys2Proof

/-- The NOP pattern: no test enabled and JT = 0 (44_transfer_control R262). Such an encoding is NOP, so no
Jump, Call, Return or Interrupt has this condition. -/
def Cond.isNop (c : Cond) : Bool := !c.ct && !c.jt && !c.cd && !c.cp

/-- With TBL = 1 the table offset is `w0[23:0]`, which holds the flag bits 10, 9, 6 and 3 too
(30_encoding R133): the flags must be those bits of the offset. -/
def IoFlags.agree (f : IoFlags) : Option Word24 → Bool
  | none => true
  | some off =>
      f.carry == off.getLsbD 10 && f.trg == off.getLsbD 9 &&
      f.ack == off.getLsbD 6 && f.atn == off.getLsbD 3

/-- The instruction has an encoding (30_encoding R132 to R139). -/
def Instr.wf : Instr → Bool
  | .set f tbl _ => f.agree tbl
  | .clear f tbl _ => f.agree tbl
  | .jump c _ => !c.isNop
  | .call c _ => !c.isNop
  | .ret c => !c.isNop
  | .int c _ => !c.isNop
  | .intfly c _ => !c.isNop
  | .pad => true
  | .moveInd _ _ _ => true
  | .moveTbl _ _ => true
  | .move _ _ _ => true
  | .select _ _ _ => true
  | .waitDisconnect _ _ => true
  | .waitReselect _ _ => true
  | .movFs _ _ => true
  | .shlFs _ _ => true
  | .orFs _ _ => true
  | .xorFs _ _ => true
  | .andFs _ _ => true
  | .shrFs _ _ => true
  | .addFs _ _ => true
  | .adcFs _ _ => true
  | .movTs _ _ => true
  | .shlTs _ _ => true
  | .orTs _ _ => true
  | .xorTs _ _ => true
  | .andTs _ _ => true
  | .shrTs _ _ => true
  | .addTs _ _ => true
  | .adcTs _ _ => true
  | .movRm _ _ => true
  | .shlRm _ _ => true
  | .orRm _ _ => true
  | .xorRm _ _ => true
  | .andRm _ _ => true
  | .shrRm _ _ => true
  | .addRm _ _ => true
  | .adcRm _ _ => true
  | .tcIllegal _ => true
  | .nop => true
  | .moveMemory _ _ _ => true
  | .load _ _ _ => true
  | .store _ _ _ => true

end Sys2Proof
end

