-- ==== Sys2Proof/Decode.lean ====
section
/-! DEFINITION. Decoding (30_encoding R130 to R141), total on any bytes, the opcode table of 30_encoding R139
as data, and the encoder. Every first word decodes; a list of bytes is rejected, by name, only when it is
shorter than the instruction it begins. -/

namespace Sys2Proof

/-! ### Fields -/

/-- `w[lo + len - 1 : lo]` (00_scope R7). -/
def field (w : Word) (lo len : Nat) : BitVec len := w.extractLsb' lo len

/-- `w[i]` (00_scope R7). -/
def bitAt (w : Word) (i : Nat) : Bool := w.getLsbD i

/-- The register offset of format RW: A7 is bit 7, A6..A0 are bits 22:16 (30_encoding R134). -/
def rwOffset (w0 : Word) : Byte := field w0 7 1 ++ field w0 16 7

/-- REL: `w1` as an address, or `w1[23:0]` as a displacement (30_encoding R133, R135, R138). -/
def targetOf (rel : Bool) (w1 : Word) : Target :=
  if rel then .rel (field w1 0 24) else .abs w1

/-- DSAREL: `w1` as an address, or `w1[23:0]` as an offset from `dsa` (30_encoding R137, R138). -/
def lsAddrOf (dsaRel : Bool) (w1 : Word) : LsAddr :=
  if dsaRel then .dsaRel (field w1 0 24) else .abs w1

/-- TBL: the table offset `w0[23:0]` of an I/O instruction, if it has one (30_encoding R133). -/
def tableOf (w0 : Word) : Option Word24 :=
  if bitAt w0 25 then some (field w0 0 24) else none

/-- The id operand of Select: `w0[19:16]`, or with TBL = 1 the table offset (30_encoding R133). -/
def idSourceOf (w0 : Word) : IdSource :=
  if bitAt w0 25 then .table (field w0 0 24) else .direct (field w0 16 4)

/-- The flag bits of Set and Clear (30_encoding R133). -/
def ioFlagsOf (w0 : Word) : IoFlags :=
  { carry := bitAt w0 10, trg := bitAt w0 9, ack := bitAt w0 6, atn := bitAt w0 3 }

/-- The condition fields of format TC (30_encoding R135). -/
def condOf (w0 : Word) : Cond :=
  { ct := bitAt w0 21, jt := bitAt w0 19, cd := bitAt w0 18, cp := bitAt w0 17,
    ph := field w0 24 3, mask := field w0 8 8, data := field w0 0 8 }

/-- The second operand of form RM (30_encoding R134, 43_regalu R203). -/
def rmSourceOf (w0 : Word) : RmSource :=
  if bitAt w0 23 then .sfbr else .imm (field w0 8 8)

/-- OPER: the operator codes 0..7 (30_encoding R134). -/
def AluOp.ofCode (c : BitVec 3) : AluOp :=
  if c = 0#3 then .mov else if c = 1#3 then .shl else if c = 2#3 then .or
  else if c = 3#3 then .xor else if c = 4#3 then .and else if c = 5#3 then .shr
  else if c = 6#3 then .add else .adc

/-- The code of an operator (30_encoding R134). -/
def AluOp.code : AluOp → BitVec 3
  | .mov => 0#3 | .shl => 1#3 | .or => 2#3 | .xor => 3#3
  | .and => 4#3 | .shr => 5#3 | .add => 6#3 | .adc => 7#3

/-- The from-SFBR instruction of an operator (43_regalu R230 to R237). -/
def Instr.ofFs (op : AluOp) (reg imm : Byte) : Instr :=
  match op with
  | .mov => .movFs reg imm
  | .shl => .shlFs reg imm
  | .or => .orFs reg imm
  | .xor => .xorFs reg imm
  | .and => .andFs reg imm
  | .shr => .shrFs reg imm
  | .add => .addFs reg imm
  | .adc => .adcFs reg imm

/-- The to-SFBR instruction of an operator (43_regalu R238 to R245). -/
def Instr.ofTs (op : AluOp) (reg imm : Byte) : Instr :=
  match op with
  | .mov => .movTs reg imm
  | .shl => .shlTs reg imm
  | .or => .orTs reg imm
  | .xor => .xorTs reg imm
  | .and => .andTs reg imm
  | .shr => .shrTs reg imm
  | .add => .addTs reg imm
  | .adc => .adcTs reg imm

/-- The read-modify-write instruction of an operator (43_regalu R246 to R253). -/
def Instr.ofRm (op : AluOp) (reg : Byte) (src : RmSource) : Instr :=
  match op with
  | .mov => .movRm reg src
  | .shl => .shlRm reg src
  | .or => .orRm reg src
  | .xor => .xorRm reg src
  | .and => .andRm reg src
  | .shr => .shrRm reg src
  | .add => .addRm reg src
  | .adc => .adcRm reg src

/-! ### Decoding, class by class (30_encoding R131, R139) -/

/-- Class 0, format BM (30_encoding R132): IND is looked at before TBL. -/
def decodeBlockMove (w0 w1 : Word) : Instr :=
  if bitAt w0 29 then .moveInd (field w0 24 3) (field w0 0 24) w1
  else if bitAt w0 28 then .moveTbl (field w0 24 3) (field w1 0 24)
  else .move (field w0 24 3) (field w0 0 24) w1

/-- Class 1, formats IO and RW (30_encoding R133, R134). -/
def decodeIoOrRegister (w0 w1 : Word) : Instr :=
  let opc := field w0 27 3
  let alt := targetOf (bitAt w0 26) w1
  let op := AluOp.ofCode (field w0 24 3)
  if opc = 0#3 then .select (bitAt w0 24) (idSourceOf w0) alt
  else if opc = 1#3 then .waitDisconnect (tableOf w0) alt
  else if opc = 2#3 then .waitReselect (tableOf w0) alt
  else if opc = 3#3 then .set (ioFlagsOf w0) (tableOf w0) alt
  else if opc = 4#3 then .clear (ioFlagsOf w0) (tableOf w0) alt
  else if opc = 5#3 then Instr.ofFs op (rwOffset w0) (field w0 8 8)
  else if opc = 6#3 then Instr.ofTs op (rwOffset w0) (field w0 8 8)
  else Instr.ofRm op (rwOffset w0) (rmSourceOf w0)

/-- Class 2, format TC (30_encoding R135): the illegal opcodes first, then the NOP pattern
(30_encoding R139 lines 11 and 12). -/
def decodeTransferControl (w0 w1 : Word) : Instr :=
  let c := condOf w0
  let opc := field w0 27 2
  if bitAt w0 29 then .tcIllegal opc
  else if c.isNop then .nop
  else if opc = 0#2 then .jump c (targetOf (bitAt w0 23) w1)
  else if opc = 1#2 then .call c (targetOf (bitAt w0 23) w1)
  else if opc = 2#2 then .ret c
  else if bitAt w0 20 then .intfly c w1
  else .int c w1

/-- Class 3, formats MM and LS (30_encoding R136, R137). -/
def decodeMemory (w0 w1 w2 : Word) : Instr :=
  if bitAt w0 29 then
    if bitAt w0 24 then .load (field w0 16 8) (field w0 0 3) (lsAddrOf (bitAt w0 28) w1)
    else .store (field w0 16 8) (field w0 0 3) (lsAddrOf (bitAt w0 28) w1)
  else .moveMemory (field w0 0 24) w1 w2

/-- The ordered map of 30_encoding R139. `w1` is looked at only when `w0` is not zero, `w2` only for a
Memory Move. -/
def decodeWords (w0 w1 w2 : Word) : Instr :=
  if w0 = 0#32 then .pad
  else if field w0 30 2 = 0#2 then decodeBlockMove w0 w1
  else if field w0 30 2 = 1#2 then decodeIoOrRegister w0 w1
  else if field w0 30 2 = 2#2 then decodeTransferControl w0 w1
  else decodeMemory w0 w1 w2

/-- The length in bytes, told from the first word alone (30_encoding R130). -/
def instrBytes (w0 : Word) : Nat :=
  if w0 = 0#32 then 4 else if field w0 29 3 = 6#3 then 12 else 8

/-! ### Bytes -/

/-- The little-endian word of four bytes, `b0` at the lowest address (20_memory R103). -/
def wordOfBytes (b0 b1 b2 b3 : Byte) : Word := b3 ++ b2 ++ b1 ++ b0

/-- The four bytes of a word, lowest address first (20_memory R103). -/
def bytesOfWord (w : Word) : List Byte :=
  [field w 0 8, field w 8 8, field w 16 8, field w 24 8]

/-- The word that a list of bytes begins with, and the rest. -/
def takeWord : List Byte → Option (Word × List Byte)
  | b0 :: b1 :: b2 :: b3 :: rest => some (wordOfBytes b0 b1 b2 b3, rest)
  | _ => none

/-- Why a list of bytes is rejected. -/
inductive DecodeReject where
  /-- Fewer than the four bytes of a first word. -/
  | noFirstWord
  /-- The second word of an 8- or 12-byte instruction is cut short. -/
  | noSecondWord
  /-- The third word of a Memory Move is cut short. -/
  | noThirdWord
  deriving DecidableEq, Repr

/-- The instruction that a list of bytes begins with, and the bytes after it (30_encoding R130). -/
def decode (bytes : List Byte) : Except DecodeReject (Instr × List Byte) :=
  match takeWord bytes with
  | none => .error .noFirstWord
  | some (w0, rest0) =>
    if instrBytes w0 = 4 then .ok (decodeWords w0 0#32 0#32, rest0)
    else match takeWord rest0 with
      | none => .error .noSecondWord
      | some (w1, rest1) =>
        if instrBytes w0 = 8 then .ok (decodeWords w0 w1 0#32, rest1)
        else match takeWord rest1 with
          | none => .error .noThirdWord
          | some (w2, rest2) => .ok (decodeWords w0 w1 w2, rest2)

/-- Byte `k` of a number, least significant byte 0. -/
def byteOfNat (w k : Nat) : Byte := BitVec.ofNat 8 (w / 2 ^ (8 * k))

/-- The twelve bytes, lowest address first, of an instruction whose bits are `w` and whose bits from
`nbits` up are zero: bit 0 is the least significant bit of the first word. -/
def tableBytes (nbits w : Nat) : List Byte :=
  let v := w % 2 ^ nbits
  [byteOfNat v 0, byteOfNat v 1, byteOfNat v 2, byteOfNat v 3,
   byteOfNat v 4, byteOfNat v 5, byteOfNat v 6, byteOfNat v 7,
   byteOfNat v 8, byteOfNat v 9, byteOfNat v 10, byteOfNat v 11]

/-- The instruction the decoder reads from the bits `w`, numbered as spec/opcode_table.json numbers them. -/
def decodeTableWord (nbits w : Nat) : Option Instr :=
  match decode (tableBytes nbits w) with
  | .ok (i, _) => some i
  | .error _ => none

/-! ### The opcode table as data (30_encoding R139, spec/opcode_table.json) -/

/-- One row: a first word `w0` fits when `w0 &&& mask = fixed`. -/
structure OpcodeRow where
  mnemonic : String
  mask : Word
  fixed : Word
  bytes : Nat
  deriving DecidableEq, Repr

/-- Rows of decode order 1 to 9: PAD, the Block Moves, the I/O instructions. -/
def opcodeRowsIo : List OpcodeRow :=
  [
   ⟨"PAD", 0xFFFFFFFF#32, 0x00000000#32, 4⟩,
   ⟨"MOVE.IND", 0xE0000000#32, 0x20000000#32, 8⟩,
   ⟨"MOVE.TBL", 0xF0000000#32, 0x10000000#32, 8⟩,
   ⟨"MOVE", 0xF0000000#32, 0x00000000#32, 8⟩,
   ⟨"SELECT", 0xF8000000#32, 0x40000000#32, 8⟩,
   ⟨"WAIT_DISCONNECT", 0xF8000000#32, 0x48000000#32, 8⟩,
   ⟨"WAIT_RESELECT", 0xF8000000#32, 0x50000000#32, 8⟩,
   ⟨"SET", 0xF8000000#32, 0x58000000#32, 8⟩,
   ⟨"CLEAR", 0xF8000000#32, 0x60000000#32, 8⟩]

/-- Rows of decode order 10: the register ALU. -/
def opcodeRowsAlu : List OpcodeRow :=
  [
   ⟨"MOV.FS", 0xFF000000#32, 0x68000000#32, 8⟩,
   ⟨"SHL.FS", 0xFF000000#32, 0x69000000#32, 8⟩,
   ⟨"OR.FS", 0xFF000000#32, 0x6A000000#32, 8⟩,
   ⟨"XOR.FS", 0xFF000000#32, 0x6B000000#32, 8⟩,
   ⟨"AND.FS", 0xFF000000#32, 0x6C000000#32, 8⟩,
   ⟨"SHR.FS", 0xFF000000#32, 0x6D000000#32, 8⟩,
   ⟨"ADD.FS", 0xFF000000#32, 0x6E000000#32, 8⟩,
   ⟨"ADC.FS", 0xFF000000#32, 0x6F000000#32, 8⟩,
   ⟨"MOV.TS", 0xFF000000#32, 0x70000000#32, 8⟩,
   ⟨"SHL.TS", 0xFF000000#32, 0x71000000#32, 8⟩,
   ⟨"OR.TS", 0xFF000000#32, 0x72000000#32, 8⟩,
   ⟨"XOR.TS", 0xFF000000#32, 0x73000000#32, 8⟩,
   ⟨"AND.TS", 0xFF000000#32, 0x74000000#32, 8⟩,
   ⟨"SHR.TS", 0xFF000000#32, 0x75000000#32, 8⟩,
   ⟨"ADD.TS", 0xFF000000#32, 0x76000000#32, 8⟩,
   ⟨"ADC.TS", 0xFF000000#32, 0x77000000#32, 8⟩,
   ⟨"MOV.RM", 0xFF000000#32, 0x78000000#32, 8⟩,
   ⟨"SHL.RM", 0xFF000000#32, 0x79000000#32, 8⟩,
   ⟨"OR.RM", 0xFF000000#32, 0x7A000000#32, 8⟩,
   ⟨"XOR.RM", 0xFF000000#32, 0x7B000000#32, 8⟩,
   ⟨"AND.RM", 0xFF000000#32, 0x7C000000#32, 8⟩,
   ⟨"SHR.RM", 0xFF000000#32, 0x7D000000#32, 8⟩,
   ⟨"ADD.RM", 0xFF000000#32, 0x7E000000#32, 8⟩,
   ⟨"ADC.RM", 0xFF000000#32, 0x7F000000#32, 8⟩]

/-- Rows of decode order 11 to 20: Transfer Control, Memory Move, Load, Store. -/
def opcodeRowsTail : List OpcodeRow :=
  [
   ⟨"TC.ILLEGAL", 0xE0000000#32, 0xA0000000#32, 8⟩,
   ⟨"NOP", 0xE02E0000#32, 0x80000000#32, 8⟩,
   ⟨"JUMP", 0xF8000000#32, 0x80000000#32, 8⟩,
   ⟨"CALL", 0xF8000000#32, 0x88000000#32, 8⟩,
   ⟨"RETURN", 0xF8000000#32, 0x90000000#32, 8⟩,
   ⟨"INT", 0xF8100000#32, 0x98000000#32, 8⟩,
   ⟨"INTFLY", 0xF8100000#32, 0x98100000#32, 8⟩,
   ⟨"MOVE_MEMORY", 0xE0000000#32, 0xC0000000#32, 12⟩,
   ⟨"LOAD", 0xE1000000#32, 0xE1000000#32, 8⟩,
   ⟨"STORE", 0xE1000000#32, 0xE0000000#32, 8⟩]

/-- The table in decode order: the first row that fits a first word is its row. -/
def opcodeRows : List OpcodeRow := opcodeRowsIo ++ opcodeRowsAlu ++ opcodeRowsTail

/-- A first word fits a row. -/
def OpcodeRow.fits (r : OpcodeRow) (w0 : Word) : Bool := w0 &&& r.mask == r.fixed

/-- The row of a first word: the first that fits. -/
def rowOf (w0 : Word) : Option OpcodeRow := opcodeRows.find? (fun r => r.fits w0)

/-- The mnemonic of an instruction's row, as spec/opcode_table.json spells it. -/
def Instr.mnemonic : Instr → String
  | .pad => "PAD"
  | .moveInd _ _ _ => "MOVE.IND"
  | .moveTbl _ _ => "MOVE.TBL"
  | .move _ _ _ => "MOVE"
  | .select _ _ _ => "SELECT"
  | .waitDisconnect _ _ => "WAIT_DISCONNECT"
  | .waitReselect _ _ => "WAIT_RESELECT"
  | .set _ _ _ => "SET"
  | .clear _ _ _ => "CLEAR"
  | .movFs _ _ => "MOV.FS"
  | .shlFs _ _ => "SHL.FS"
  | .orFs _ _ => "OR.FS"
  | .xorFs _ _ => "XOR.FS"
  | .andFs _ _ => "AND.FS"
  | .shrFs _ _ => "SHR.FS"
  | .addFs _ _ => "ADD.FS"
  | .adcFs _ _ => "ADC.FS"
  | .movTs _ _ => "MOV.TS"
  | .shlTs _ _ => "SHL.TS"
  | .orTs _ _ => "OR.TS"
  | .xorTs _ _ => "XOR.TS"
  | .andTs _ _ => "AND.TS"
  | .shrTs _ _ => "SHR.TS"
  | .addTs _ _ => "ADD.TS"
  | .adcTs _ _ => "ADC.TS"
  | .movRm _ _ => "MOV.RM"
  | .shlRm _ _ => "SHL.RM"
  | .orRm _ _ => "OR.RM"
  | .xorRm _ _ => "XOR.RM"
  | .andRm _ _ => "AND.RM"
  | .shrRm _ _ => "SHR.RM"
  | .addRm _ _ => "ADD.RM"
  | .adcRm _ _ => "ADC.RM"
  | .tcIllegal _ => "TC.ILLEGAL"
  | .nop => "NOP"
  | .jump _ _ => "JUMP"
  | .call _ _ => "CALL"
  | .ret _ => "RETURN"
  | .int _ _ => "INT"
  | .intfly _ _ => "INTFLY"
  | .moveMemory _ _ _ => "MOVE_MEMORY"
  | .load _ _ _ => "LOAD"
  | .store _ _ _ => "STORE"

/-! ### The encoder -/

/-- A first word from its top byte and its low 24 bits. -/
def firstWord (top : Byte) (low : Word24) : Word := top ++ low

/-- The top byte of format BM (30_encoding R132). -/
def bmTop (ind tbl opc : Bool) (ph : BitVec 3) : Byte :=
  0b00#2 ++ BitVec.ofBool ind ++ BitVec.ofBool tbl ++ BitVec.ofBool opc ++ ph

/-- The top byte of format IO (30_encoding R133). -/
def ioTop (opc : BitVec 3) (rel tbl satn : Bool) : Byte :=
  0b01#2 ++ opc ++ BitVec.ofBool rel ++ BitVec.ofBool tbl ++ BitVec.ofBool satn

/-- The low bits of Set and Clear with TBL = 0 (30_encoding R133). -/
def ioFlagBits (f : IoFlags) : Word24 :=
  0#13 ++ BitVec.ofBool f.carry ++ BitVec.ofBool f.trg ++ 0#2 ++ BitVec.ofBool f.ack ++ 0#2
    ++ BitVec.ofBool f.atn ++ 0#3

/-- The first word of format RW (30_encoding R134). -/
def rwWord (opc : BitVec 3) (op : AluOp) (usfbr : Bool) (reg imm : Byte) : Word :=
  firstWord (0b01#2 ++ opc ++ op.code)
    (BitVec.ofBool usfbr ++ reg.extractLsb' 0 7 ++ imm ++ reg.extractLsb' 7 1 ++ 0#7)

/-- The first word of form RM: USFBR and, without it, the immediate (30_encoding R134). -/
def rmWord (op : AluOp) (reg : Byte) : RmSource → Word
  | .imm b => rwWord 7#3 op false reg b
  | .sfbr => rwWord 7#3 op true reg 0#8

/-- The first word of format TC (30_encoding R135). -/
def tcWord (opc : BitVec 3) (rel fly : Bool) (c : Cond) : Word :=
  firstWord (0b10#2 ++ opc ++ c.ph)
    (BitVec.ofBool rel ++ 0#1 ++ BitVec.ofBool c.ct ++ BitVec.ofBool fly ++ BitVec.ofBool c.jt
      ++ BitVec.ofBool c.cd ++ BitVec.ofBool c.cp ++ 0#1 ++ c.mask ++ c.data)

/-- The first word of format LS (30_encoding R137). -/
def lsWord (ld dsaRel : Bool) (reg : Byte) (n : BitVec 3) : Word :=
  firstWord (0b111#3 ++ BitVec.ofBool dsaRel ++ 0#3 ++ BitVec.ofBool ld) (reg ++ 0#13 ++ n)

/-- A 24-bit operand in a second word whose top byte is ignored. -/
def word24 (d : Word24) : Word := 0#8 ++ d

/-- Is the target relative? -/
def Target.isRel : Target → Bool
  | .abs _ => false
  | .rel _ => true

/-- The second word of a target. -/
def Target.word : Target → Word
  | .abs a => a
  | .rel d => word24 d

/-- Is the address relative to `dsa`? -/
def LsAddr.isRel : LsAddr → Bool
  | .abs _ => false
  | .dsaRel _ => true

/-- The second word of a Load or Store. -/
def LsAddr.word : LsAddr → Word
  | .abs a => a
  | .dsaRel d => word24 d

/-- The low 24 bits of Select. -/
def IdSource.bits : IdSource → Word24
  | .direct id => 0#4 ++ id ++ 0#16
  | .table off => off

/-- TBL of Select. -/
def IdSource.isTable : IdSource → Bool
  | .direct _ => false
  | .table _ => true

/-- The words of an I/O instruction from its low 24 bits. -/
def ioWords (opc : BitVec 3) (satn tbl : Bool) (low : Word24) (alt : Target) : List Word :=
  [firstWord (ioTop opc alt.isRel tbl satn) low, alt.word]

/-- The words of an instruction, ignored bits 0 (30_encoding R132 to R137). A direct Block Move of 0
bytes in Data-Out has bit 27 set: with it clear its first word would be the zero word, which is PAD
(30_encoding R130, R132). -/
def encode : Instr → List Word
  | .pad => [0#32]
  | .moveInd ph count ptr => [firstWord (bmTop true false false ph) count, ptr]
  | .moveTbl ph off => [firstWord (bmTop false true false ph) 0#24, word24 off]
  | .move ph count addr =>
      [firstWord (bmTop false false (ph == 0#3 && count == 0#24) ph) count, addr]
  | .select atn id alt => ioWords 0#3 atn id.isTable id.bits alt
  | .waitDisconnect tbl alt => ioWords 1#3 false tbl.isSome (tbl.getD 0#24) alt
  | .waitReselect tbl alt => ioWords 2#3 false tbl.isSome (tbl.getD 0#24) alt
  | .set f tbl alt => ioWords 3#3 false tbl.isSome (tbl.getD (ioFlagBits f)) alt
  | .clear f tbl alt => ioWords 4#3 false tbl.isSome (tbl.getD (ioFlagBits f)) alt
  | .movFs reg imm => [rwWord 5#3 .mov false reg imm, 0#32]
  | .shlFs reg imm => [rwWord 5#3 .shl false reg imm, 0#32]
  | .orFs reg imm => [rwWord 5#3 .or false reg imm, 0#32]
  | .xorFs reg imm => [rwWord 5#3 .xor false reg imm, 0#32]
  | .andFs reg imm => [rwWord 5#3 .and false reg imm, 0#32]
  | .shrFs reg imm => [rwWord 5#3 .shr false reg imm, 0#32]
  | .addFs reg imm => [rwWord 5#3 .add false reg imm, 0#32]
  | .adcFs reg imm => [rwWord 5#3 .adc false reg imm, 0#32]
  | .movTs reg imm => [rwWord 6#3 .mov false reg imm, 0#32]
  | .shlTs reg imm => [rwWord 6#3 .shl false reg imm, 0#32]
  | .orTs reg imm => [rwWord 6#3 .or false reg imm, 0#32]
  | .xorTs reg imm => [rwWord 6#3 .xor false reg imm, 0#32]
  | .andTs reg imm => [rwWord 6#3 .and false reg imm, 0#32]
  | .shrTs reg imm => [rwWord 6#3 .shr false reg imm, 0#32]
  | .addTs reg imm => [rwWord 6#3 .add false reg imm, 0#32]
  | .adcTs reg imm => [rwWord 6#3 .adc false reg imm, 0#32]
  | .movRm reg src => [rmWord .mov reg src, 0#32]
  | .shlRm reg src => [rmWord .shl reg src, 0#32]
  | .orRm reg src => [rmWord .or reg src, 0#32]
  | .xorRm reg src => [rmWord .xor reg src, 0#32]
  | .andRm reg src => [rmWord .and reg src, 0#32]
  | .shrRm reg src => [rmWord .shr reg src, 0#32]
  | .addRm reg src => [rmWord .add reg src, 0#32]
  | .adcRm reg src => [rmWord .adc reg src, 0#32]
  | .tcIllegal opc => [firstWord (0b101#3 ++ opc ++ 0#3) 0#24, 0#32]
  | .nop => [0x80000000#32, 0#32]
  | .jump c t => [tcWord 0#3 t.isRel false c, t.word]
  | .call c t => [tcWord 1#3 t.isRel false c, t.word]
  | .ret c => [tcWord 2#3 false false c, 0#32]
  | .int c v => [tcWord 3#3 false false c, v]
  | .intfly c v => [tcWord 3#3 false true c, v]
  | .moveMemory count src dst => [firstWord (0b110#3 ++ 0#5) count, src, dst]
  | .load reg n addr => [lsWord true addr.isRel reg n, addr.word]
  | .store reg n addr => [lsWord false addr.isRel reg n, addr.word]

/-- The bytes of an instruction, lowest address first (20_memory R103, 30_encoding R130). -/
def encodeBytes (i : Instr) : List Byte := (encode i).flatMap bytesOfWord

end Sys2Proof
end

