-- ==== Sys2Proof/Config.lean ====
section
/-! DEFINITION. The parameters of 00_scope R6, the shape of the device model's answer
(46_phase_engine R290), and the free values: what the outside world answers when a state lists no
answer for it. Nothing in Lean can evaluate a free value or prove what it is. -/

namespace Sys2Proof.Config

/-- `BUDGET`: instructions per activation before the forced disconnect (00_scope R6, 40_dispatch R169). -/
def budget : Nat := 10000

/-- `CDB_MAX`: the largest command descriptor block read in Command phase (00_scope R6). -/
def cdbMax : Nat := 12

/-- `MSG_MAX`: the capacity of the message buffer in bytes (00_scope R6). -/
def msgMax : Nat := 8

/-- What 00_scope R6 marks as parameters of one chip. A state carries them and no step changes them, so
that a statement over every state holds for every chip (log 8). -/
structure Params where
  /-- `CHIP_REV`: read in CTEST3 bits 7:4. -/
  chipRev : BitVec 4
  /-- `GPREG_PINS`: read at offset 0x07. -/
  gpregPins : Byte
  deriving DecidableEq, Repr

/-- The values 00_scope R6 gives as the defaults. -/
def Params.default : Params := { chipRev := 0#4, gpregPins := 0x7F#8 }

/-- The answer `(dir, len, data)` of `Dev.command_phase0` (46_phase_engine R290). `len` is the length of
`data` when the direction is In, so it is not held beside it. -/
inductive DevReply where
  /-- The device will send these bytes. -/
  | dataIn (data : List Byte)
  /-- The device expects `len` bytes. -/
  | dataOut (len : Nat)
  /-- No data phase, whatever `len` it declares. -/
  | noData (len : Nat)
  deriving DecidableEq, Repr, Inhabited

/-- `len` of a device's answer: what `Dev.get_buffer_length` returns afterwards (46_phase_engine R290). -/
def DevReply.len : DevReply → Nat
  | .dataIn data => data.length
  | .dataOut n => n
  | .noData n => n

/-- FREE VALUE (log 2): the answer of `Dev.is_present(id)` in outside call number `n`. -/
opaque devPresent (n : Nat) (id : TargetId) : Bool

/-- FREE VALUE (log 2): the answer of `Dev.command_phase0(id, cdb)` in outside call number `n`. -/
opaque devReply (n : Nat) (id : TargetId) (cdb : List Byte) : DevReply

/-- FREE VALUE (log 2): the answer of `Dev.get_status(id)` in outside call number `n`. -/
opaque devStatus (n : Nat) (id : TargetId) : Byte

/-- FREE VALUE (log 3): the byte the platform answers to a read of port `p` in outside call number `n`. -/
opaque portByte (n : Nat) (p : Port) : Byte

end Sys2Proof.Config
end

