-- ==== Sys2Proof/Machine/State.lean ====
section
/-! DEFINITION. The state of the SCRIPTS core as plain data (10_state R12 to R43), the outside world a step
reads and writes (10_state R11), the reasons a step may stop, and the state after reset (10_state R45,
70_reset R370, R371). -/

namespace Sys2Proof.Machine

/-- The six phases that `phase` takes (10_state R26, R44); the codes are `Phase.code`. -/
inductive Phase where
  | dataOut | dataIn | command | status | msgOut | msgIn
  deriving DecidableEq, Repr

/-- `waiting`: 0 running, 1 waiting for reselection, 2 script DMA in flight (10_state R34). -/
inductive Waiting where
  | running | reselect | dma
  deriving DecidableEq, Repr

/-- `msg_action`: what Message-In does when it drains, codes 0 to 3 (10_state R36). -/
inductive MsgAction where
  | command | disconnect | dataOut | dataIn
  deriving DecidableEq, Repr

/-- The direction of a request's data (10_state R37). -/
inductive Direction where
  | input | output
  deriving DecidableEq, Repr

/-- The In-flight Request (10_state R37); `dma_len` is the length of `buf` (log 10). -/
structure Request where
  id : TargetId
  buf : List Byte
  pos : Nat
  dir : Direction
  deriving DecidableEq, Repr

/-- `request.dma_len` (10_state R37). -/
def Request.dmaLen (r : Request) : Nat := r.buf.length

/-- An event of the host or the Scheduler, which lands between activations only (10_state R10,
70_reset R375). -/
inductive HostEvent where
  /-- `RegRead(off)` by the host. -/
  | read (off : Byte)
  /-- `RegWrite(off, b)` by the host. -/
  | write (off b : Byte)
  /-- Hard reset (70_reset R370). -/
  | reset
  /-- The Scheduler's invocation (40_dispatch R160, R167). -/
  | tick
  /-- The host changes one byte of guest memory (10_state R10; log 16). -/
  | memStore (addr : Word) (b : Byte)
  deriving DecidableEq, Repr

/-- A call of the core on the outside world, with the answer it got, or a byte handed to the host. -/
inductive ExtCall where
  /-- `PortRead(p)` answered `b` (20_memory R102). -/
  | portRead (p : Port) (b : Byte)
  /-- `PortWrite(p, b)` (20_memory R102). -/
  | portWrite (p : Port) (b : Byte)
  /-- `Dev.is_present(id)` (46_phase_engine R290). -/
  | isPresent (id : TargetId) (answer : Bool)
  /-- `Dev.command_phase0(id, cdb)` (46_phase_engine R290). -/
  | commandPhase0 (id : TargetId) (cdb : List Byte) (reply : Config.DevReply)
  /-- `Dev.command_phase1(id, out)` (46_phase_engine R290). -/
  | commandPhase1 (id : TargetId) (out : List Byte)
  /-- `Dev.get_status(id)` (46_phase_engine R290). -/
  | getStatus (id : TargetId) (b : Byte)
  /-- The host's `RegRead(off)` returned `b` (11_register_bank R50). -/
  | hostRead (off b : Byte)
  deriving DecidableEq, Repr

/-- MODEL'S OWN (logs 2, 3, 7): the port to the device model and to the platform's I/O ports. Each answer
is the head of its list; once the list is empty, the free value of Config at `clock`. -/
structure ExtPort where
  /-- Answers to come of `Dev.is_present`. -/
  presentIn : List Bool
  /-- Answers to come of `Dev.command_phase0`. -/
  replyIn : List Config.DevReply
  /-- Answers to come of `Dev.get_status`. -/
  statusIn : List Byte
  /-- Bytes to come of port reads. -/
  portIn : List Byte
  /-- The number of outside calls that asked for an answer. -/
  clock : Nat
  /-- What the core did to the outside world, newest first. -/
  trace : List ExtCall
  deriving DecidableEq, Repr

/-- The registers that are storage with no effect on any rule (10_state R22, R32; 11_register_bank R77). -/
structure Storage where
  scntl0 : Byte
  scntl2 : Byte
  scntl3 : Byte
  scid : Byte
  sxfer : Byte
  ctest3Lo : BitVec 4
  ctest4 : Byte
  sbr : Byte
  stime0 : Byte
  stime1 : Byte
  respid0 : Byte
  respid1 : Byte
  stest1 : Byte
  stest2 : Byte
  stest3 : Byte
  deriving DecidableEq, Repr

/-- Guest memory: the bytes that differ from what an unlisted address reads as (log 1), by rising address. -/
abbrev Memory := List Host.Cell

/-- The machine. -/
structure State where
  /-- The script pointer (10_state R12). -/
  dsp : Word
  /-- The saved return address (10_state R13). -/
  temp : Word
  /-- Remaining byte count of the Block Move (10_state R14). -/
  dbc : Word24
  /-- DMA address (10_state R15). -/
  dnad : Word
  /-- Base of the active control block (10_state R16). -/
  dsa : Word
  /-- Second word of the instruction last fetched (10_state R17). -/
  dsps : Word
  /-- Top byte of the instruction last fetched (10_state R18). -/
  dcmd : Byte
  /-- The condition flag (10_state R19). -/
  carry : Bool
  /-- SCRATCHA (index 0), SCRATCHB (1), SCRATCHC to SCRATCHJ (2 to 9) (10_state R20). -/
  scratch : Vector Word 10
  /-- First byte received (10_state R21). -/
  sfbr : Byte
  /-- Storage registers with no effect (10_state R22, R32). -/
  storage : Storage
  /-- SCNTL1: bit 4 connected, bit 3 RST, bit 1 IARB (10_state R23). -/
  scntl1 : Byte
  /-- Target id of the last Select (10_state R24). -/
  sdid : TargetId
  /-- Output control latch (10_state R25). -/
  socl : Byte
  /-- Current SCSI phase (10_state R26). -/
  phase : Phase
  /-- SSTAT0: bit 2 WOA, bit 1 RST (10_state R27). -/
  sstat0 : Byte
  /-- Message-In diagnostic latch (10_state R28). -/
  sidl : Byte
  /-- SCSI causes, first register (10_state R29, 60_exceptions R330). -/
  sist0 : Byte
  /-- SCSI causes, second register (10_state R29). -/
  sist1 : BitVec 3
  /-- Enables of `sist0` (10_state R29). -/
  sien0 : Byte
  /-- Enables of `sist1` (10_state R29). -/
  sien1 : BitVec 3
  /-- DMA causes (10_state R29). -/
  dstat : BitVec 7
  /-- Enables of `dstat` (10_state R29). -/
  dien : BitVec 7
  /-- Interrupt-on-the-fly flag (10_state R29). -/
  intf : Bool
  /-- ISTAT bits 7:4 as stored: ABRT, SRST, SIGP, SEM (10_state R29, 11_register_bank R62). -/
  istatHi : BitVec 4
  /-- The interrupt line (10_state R29, 60_exceptions R334). -/
  irq : Bool
  /-- DMODE: bit 5 SIOM, bit 4 DIOM, bit 0 MAN (10_state R30). -/
  dmode : Byte
  /-- DCNTL: bit 4 SSM (10_state R31). -/
  dcntl : Byte
  /-- DFIFO (10_state R32, 41_block_move R185). -/
  dfifo : Byte
  /-- CTEST5 (10_state R32, 41_block_move R185). -/
  ctest5 : Byte
  /-- The interpreter is stopped (10_state R33). -/
  sstop : Bool
  /-- What the interpreter waits for (10_state R34). -/
  waiting : Waiting
  /-- Message bytes to be sent in Message-In, first byte first; `msg_len` is the length (10_state R35, log 9). -/
  msg : List Byte
  /-- The pending message action (10_state R36). -/
  msgAction : MsgAction
  /-- The In-flight Request (10_state R37). -/
  request : Option Request
  /-- The SCSI status byte (10_state R38). -/
  status : Byte
  /-- The last Select was with attention (10_state R39). -/
  selAtn : Bool
  /-- LUN of the last Identify message (10_state R40). -/
  currentLun : BitVec 3
  /-- Tag byte of the last queue-tag message (10_state R40). -/
  selectTag : Byte
  /-- A tag byte has been received (10_state R40). -/
  tagValid : Bool
  /-- Fetches in the current activation (10_state R41). -/
  icount : Nat
  /-- Byte-count bookkeeping of the Block Move (10_state R42). -/
  rbc : Word24
  /-- The activation ends after this instruction (10_state R43). -/
  yield : Bool
  /-- Guest memory (20_memory R100, R101). -/
  mem : Memory
  /-- The chip's parameters (00_scope R6, log 8). -/
  params : Config.Params
  /-- MODEL'S OWN (log 5): inside an activation, between two instructions of one `Run()`. -/
  inRun : Bool
  /-- MODEL'S OWN (log 4): the external events to come, next first. -/
  inbox : List HostEvent
  /-- MODEL'S OWN (logs 2, 3): the outside world. -/
  io : ExtPort
  deriving DecidableEq, Repr

/-- Why a step may stop with a fault: nothing does. No rule of the spec stops the machine itself: every
"trap" is a latched cause and a next state (60_exceptions R340), and no access fails (20_memory R101).
So this type has no constructor, which is safe: no state of the model is cut off (log 21). -/
inductive Fault where
  deriving DecidableEq, Repr

/-- Why a step may be refused. -/
inductive Refusal where
  /-- Raised by an arm of `exec` for an instruction that has no meaning yet. Safe: nothing is claimed of it.
  No arm does: every instruction has its meaning. -/
  | notModelled (mnemonic : String)
  deriving DecidableEq, Repr

/-- The storage registers after reset (70_reset R370, R371). -/
def Storage.reset : Storage :=
  { scntl0 := 0xC0#8, scntl2 := 0#8, scntl3 := 0#8, scid := 0x07#8, sxfer := 0#8
    ctest3Lo := 0#4, ctest4 := 0#8, sbr := 0#8, stime0 := 0#8, stime1 := 0#8
    respid0 := 0x80#8, respid1 := 0#8, stest1 := 0#8, stest2 := 0#8, stest3 := 0#8 }

/-- The outside world before anything happened: no answer listed (every answer free), no call made
(DESIGN CHOICE, log 7). -/
def ExtPort.reset : ExtPort :=
  { presentIn := [], replyIn := [], statusIn := [], portIn := [], clock := 0, trace := [] }

/-- The machine right after reset (10_state R45, 70_reset R371). Memory lists nothing (log 1), the chip's
parameters have their defaults (00_scope R6), and the model's own fields are empty (log 7). -/
def State.reset : State :=
  { dsp := 0#32, temp := 0#32, dbc := 0#24, dnad := 0#32, dsa := 0#32, dsps := 0#32, dcmd := 0x40#8
    carry := false, scratch := Vector.replicate 10 0#32, sfbr := 0#8, storage := Storage.reset
    scntl1 := 0#8, sdid := 0#4, socl := 0#8, phase := .dataOut, sstat0 := 0#8, sidl := 0#8
    sist0 := 0#8, sist1 := 0#3, sien0 := 0#8, sien1 := 0#3, dstat := 0#7, dien := 0#7
    intf := false, istatHi := 0#4, irq := false
    dmode := 0#8, dcntl := 0#8, dfifo := 0#8, ctest5 := 0#8
    sstop := true, waiting := .running, msg := [], msgAction := .command, request := none
    status := 0#8, selAtn := false, currentLun := 0#3, selectTag := 0#8, tagValid := false
    icount := 0, rbc := 0#24, yield := false
    mem := [], params := Config.Params.default, inRun := false, inbox := [], io := ExtPort.reset }

end Sys2Proof.Machine
end

