-- ==== Sys2Proof/Machine/Memory.lean ====
section
/-! DEFINITION. Guest memory (20_memory R100, R101, R103): one byte, a run of bytes, a little-endian word.
Addresses are 32 bits and wrap; a key of the list is an address as a natural number. -/

namespace Sys2Proof.Machine

/-- What an address that the list does not hold reads as (DESIGN CHOICE, log 1). -/
def Memory.unlisted : Byte := 0#8

/-- Addresses strictly rising, all below 2^32, none holding what an unlisted address reads as. -/
def Memory.wf : Memory → Bool
  | [] => true
  | [(a, b)] => decide (a < 2 ^ 32) && b != Memory.unlisted
  | (a, b) :: (a', b') :: rest =>
      decide (a < a') && b != Memory.unlisted && Memory.wf ((a', b') :: rest)

/-- The byte at address `a`. -/
def Memory.get (m : Memory) (a : Nat) : Byte :=
  match m with
  | [] => Memory.unlisted
  | (k, b) :: rest => if k = a then b else Memory.get rest a

/-- Memory with `b` at address `a`, in canonical form again. -/
def Memory.put (m : Memory) (a : Nat) (b : Byte) : Memory :=
  match m with
  | [] => if b = Memory.unlisted then [] else [(a, b)]
  | (k, x) :: rest =>
    if a < k then (if b = Memory.unlisted then (k, x) :: rest else (a, b) :: (k, x) :: rest)
    else if a = k then (if b = Memory.unlisted then rest else (a, b) :: rest)
    else (k, x) :: Memory.put rest a b

/-- `MemRead(addr, 1)`. -/
def Memory.byte (m : Memory) (addr : Word) : Byte := m.get addr.toNat

/-- `MemRead(addr, n)`: lowest address first, addresses modulo 2^32 (20_memory R101). -/
def Memory.bytes (m : Memory) (addr : Word) : Nat → List Byte
  | 0 => []
  | n + 1 => m.byte addr :: Memory.bytes m (addr + 1#32) n

/-- `MemWrite(addr, n, bytes)`: `bytes[i]` at `addr + i` (20_memory R101). -/
def Memory.store (m : Memory) (addr : Word) : List Byte → Memory
  | [] => m
  | b :: rest => Memory.store (m.put addr.toNat b) (addr + 1#32) rest

/-- `MemRead32(addr)`: little-endian (20_memory R103). -/
def Memory.word (m : Memory) (addr : Word) : Word :=
  wordOfBytes (m.byte addr) (m.byte (addr + 1#32)) (m.byte (addr + 2#32)) (m.byte (addr + 3#32))

end Sys2Proof.Machine
end

