-- ==== Sys2Proof/Machine/Ops.lean ====
section
/-! DEFINITION. The operations the instructions share: the interrupt aggregator, taking an exception (a cause)
and the return from one, reset, the calls on the outside world, the DMA Transfer Unit. -/

namespace Sys2Proof.Machine

/-! ### The aggregator (60_exceptions R335) -/

/-- The value of the interrupt line: some cause enabled, or INTF. -/
def irqValue (s : State) : Bool :=
  s.dstat &&& s.dien != 0#7 || s.sist0 &&& s.sien0 != 0#8 || s.sist1 &&& s.sien1 != 0#3 || s.intf

/-- `UpdateIrq()`. -/
def updateIrq (s : State) : State := { s with irq := irqValue s }

/-! ### Taking an exception, and the return from one (60_exceptions R336 to R341) -/

/-- `RaiseSCSI(s0, s1)` (60_exceptions R336): latch; stop if anything other than a selection timeout alone is
latched; recompute the line. -/
def raiseScsi (s0 : Byte) (s1 : BitVec 3) (s : State) : State :=
  updateIrq { s with
    sist0 := s.sist0 ||| s0
    sist1 := s.sist1 ||| s1
    sstop := s.sstop || s.sist0 ||| s0 != 0#8 || (s.sist1 ||| s1) &&& 3#3 != 0#3 }

/-- `RaiseDMA(d)` (60_exceptions R337): latch under mask 0x7D, recompute the line, stop. -/
def raiseDma (d : Byte) (s : State) : State :=
  updateIrq { s with dstat := s.dstat ||| (d &&& 0x7D#8).setWidth 7, sstop := true }

/-- The causes this core raises (60_exceptions R330, R331). -/
inductive Cause where
  /-- Phase mismatch, SIST0 bit 7. -/
  | ma
  /-- Unexpected disconnect, SIST0 bit 2. -/
  | udc
  /-- SCSI bus reset, SIST0 bit 1. -/
  | rst
  /-- Selection timeout, SIST1 bit 2. -/
  | sto
  /-- Aborted, DSTAT bit 4. -/
  | abrt
  /-- Single step, DSTAT bit 3. -/
  | ssi
  /-- Script interrupt, DSTAT bit 2. -/
  | sir
  /-- Illegal instruction, DSTAT bit 0. -/
  | iid
  deriving DecidableEq, Repr

/-- TAKING AN EXCEPTION (60_exceptions R340): the cause is latched, the line recomputed, the interpreter
stopped as R336 and R337 say; nothing is saved and `dsp` is not redirected. -/
def raise (c : Cause) (s : State) : State :=
  match c with
  | .ma => raiseScsi 0x80#8 0#3 s
  | .udc => raiseScsi 0x04#8 0#3 s
  | .rst => raiseScsi 0x02#8 0#3 s
  | .sto => raiseScsi 0#8 4#3 s
  | .abrt => raiseDma 0x10#8 s
  | .ssi => raiseDma 0x08#8 s
  | .sir => raiseDma 0x04#8 s
  | .iid => raiseDma 0x01#8 s

/-- THE RETURN FROM ONE, `Start()` (40_dispatch R166, 60_exceptions R341): the interpreter runs again; no
cause, nor anything else, changes. -/
def start (s : State) : State := { s with sstop := false }

/-- The delayed selection-timeout stop (41_block_move R180, 44_transfer_control R263): no new cause. -/
def stop (s : State) : State := { s with sstop := true }

/-- STO is latched and not yet read (41_block_move R180). -/
def stoLatched (s : State) : Bool := s.sist1.getLsbD 2

/-! ### Reset (70_reset R370) -/

/-- `Reset`, hard or soft: every element takes its value of 10_state R45; guest memory, the chip's
parameters, the outside world and the position in the run loop are not the core's (log 15). -/
def resetCore (s : State) : State :=
  updateIrq { State.reset with
    mem := s.mem, params := s.params, inRun := s.inRun, inbox := s.inbox, io := s.io }

/-! ### Phase and connection (46_phase_engine R291, R300) -/

/-- The code of a phase (10_state R26). -/
def Phase.code : Phase → BitVec 3
  | .dataOut => 0#3 | .dataIn => 1#3 | .command => 2#3 | .status => 3#3 | .msgOut => 6#3 | .msgIn => 7#3

/-- `SetPhase(p)` (46_phase_engine R291). -/
def setPhase (p : Phase) (s : State) : State := { s with phase := p }

/-- `scntl1[4]`: connected (10_state R23). -/
def connected (s : State) : Bool := s.scntl1.getLsbD 4

/-- `Disconnect()` (46_phase_engine R300). -/
def disconnect (s : State) : State :=
  { s with
    scntl1 := s.scntl1 &&& 0xEF#8
    phase := if s.selAtn then .msgIn else .dataOut
    request := none }

/-- `AddMsgByte(b)` (10_state R35). -/
def addMsgByte (b : Byte) (s : State) : State :=
  { s with msg := if s.msg.length < Config.msgMax then s.msg ++ [b] else s.msg }

/-- `sat0(x - y)` (00_scope R7). -/
def satSub (x y : Word24) : Word24 := if y ≤ x then x - y else 0#24

/-! ### The outside world (46_phase_engine R290, 20_memory R102) -/

/-- `Dev.is_present(id)`: the answer and the state after the call. -/
def askPresent (id : TargetId) (s : State) : Bool × State :=
  let a := s.io.presentIn.headD (Config.devPresent s.io.clock id)
  (a, { s with io := { s.io with
    presentIn := s.io.presentIn.tail, clock := s.io.clock + 1, trace := .isPresent id a :: s.io.trace } })

/-- `Dev.command_phase0(id, cdb)`. -/
def askCommand (id : TargetId) (cdb : List Byte) (s : State) : Config.DevReply × State :=
  let a := s.io.replyIn.headD (Config.devReply s.io.clock id cdb)
  (a, { s with io := { s.io with
    replyIn := s.io.replyIn.tail, clock := s.io.clock + 1
    trace := .commandPhase0 id cdb a :: s.io.trace } })

/-- `Dev.command_phase1(id, out)`: it answers nothing. -/
def tellData (id : TargetId) (out : List Byte) (s : State) : State :=
  { s with io := { s.io with trace := .commandPhase1 id out :: s.io.trace } }

/-- `Dev.get_status(id)`. -/
def askStatus (id : TargetId) (s : State) : Byte × State :=
  let a := s.io.statusIn.headD (Config.devStatus s.io.clock id)
  (a, { s with io := { s.io with
    statusIn := s.io.statusIn.tail, clock := s.io.clock + 1, trace := .getStatus id a :: s.io.trace } })

/-- `PortRead(p)`. -/
def portRead (p : Port) (s : State) : Byte × State :=
  let a := s.io.portIn.headD (Config.portByte s.io.clock p)
  (a, { s with io := { s.io with
    portIn := s.io.portIn.tail, clock := s.io.clock + 1, trace := .portRead p a :: s.io.trace } })

/-- `PortWrite(p, b)`. -/
def portWrite (p : Port) (b : Byte) (s : State) : State :=
  { s with io := { s.io with trace := .portWrite p b :: s.io.trace } }

/-- The byte a host read returned goes to the host. -/
def giveHost (off b : Byte) (s : State) : State :=
  { s with io := { s.io with trace := .hostRead off b :: s.io.trace } }

/-! ### The DMA Transfer Unit (20_memory R106, R107) -/

/-- The port number of an address: modulo 2^16 (20_memory R106). -/
def portOf (addr : Word) : Port := addr.setWidth 16

/-- `n` port reads at ascending addresses. -/
def portBytes (addr : Word) : Nat → State → List Byte × State
  | 0, s => ([], s)
  | n + 1, s =>
    let (b, s1) := portRead (portOf addr) s
    let (bs, s2) := portBytes (addr + 1#32) n s1
    (b :: bs, s2)

/-- One port write for each byte, at ascending addresses. -/
def portStore (addr : Word) : List Byte → State → State
  | [], s => s
  | b :: rest, s => portStore (addr + 1#32) rest (portWrite (portOf addr) b s)

/-- SIOM: DMA Unit reads go to port space (10_state R30). -/
def siom (s : State) : Bool := s.dmode.getLsbD 5

/-- DIOM: DMA Unit writes go to port space (10_state R30). -/
def diom (s : State) : Bool := s.dmode.getLsbD 4

/-- `MemWrite(addr, n, bytes)` (20_memory R101). -/
def memWrite (addr : Word) (bytes : List Byte) (s : State) : State :=
  { s with mem := s.mem.store addr bytes }

/-- `DmaRead(addr, n)` (20_memory R106). -/
def dmaRead (addr : Word) (n : Nat) (s : State) : List Byte × State :=
  if siom s then portBytes addr n s else (s.mem.bytes addr n, s)

/-- `DmaWrite(addr, n, bytes)` (20_memory R107). -/
def dmaWrite (addr : Word) (bytes : List Byte) (s : State) : State :=
  if diom s then portStore addr bytes s else memWrite addr bytes s

end Sys2Proof.Machine
end

