-- ==== Sys2Proof/Machine/Bank.lean ====
section
/-! DEFINITION. The register bank (11_register_bank R50 to R79): the map of offsets to registers, the byte a
register reads as, what a read does, what a write does. Host and script share it (R78). -/

namespace Sys2Proof.Machine

/-! ### Lanes (11_register_bank R52) -/

/-- Lane `k` of a multi-byte value: bits `8k+7 : 8k`. -/
def lane {n : Nat} (v : BitVec n) (k : Nat) : Byte := v.extractLsb' (8 * k) 8

/-- A value with lane `k` replaced and its other bits kept. -/
def setLane {n : Nat} (v : BitVec n) (k : Nat) (b : Byte) : BitVec n :=
  (v &&& ~~~((0xFF#8).setWidth n <<< (8 * k))) ||| (b.setWidth n <<< (8 * k))

/-! ### The map (11_register_bank R54) -/

/-- The registers of the bank; a multi-byte one by its lane. -/
inductive BankReg where
  | scntl0 | scntl1 | scntl2 | scntl3 | scid | sxfer | sdid | gpreg
  | sfbr | socl | ssid | sbcl | dstat | sstat0 | sstat1 | sstat2
  | dsa (k : Fin 4) | istat | ctest0 | ctest1 | ctest2 | ctest3 | temp (k : Fin 4)
  | dfifo | ctest4 | ctest5 | ctest6 | dbc (k : Fin 3) | dcmd | dnad (k : Fin 4) | dsp (k : Fin 4)
  | dsps (k : Fin 4) | dmode | dien | sbr | dcntl | adder
  | sien0 | sien1 | sist0 | sist1 | macntl | gpcntl | stime0 | stime1
  | respid0 | respid1 | stest0 | stest1 | stest2 | stest3 | sidl | sbdl
  /-- Scratch register `j` (0 = A, 1 = B, 2 to 9 = C to J), lane `k`. -/
  | scratch (j : Fin 10) (k : Fin 4)
  /-- An offset with no register: reads 0, writes ignored (R53). -/
  | unlisted
  deriving DecidableEq, Repr

/-- Offsets 0x00 to 0x1F. -/
def bankMap00 : List BankReg :=
  [.scntl0, .scntl1, .scntl2, .scntl3, .scid, .sxfer, .sdid, .gpreg,
   .sfbr, .socl, .ssid, .sbcl, .dstat, .sstat0, .sstat1, .sstat2,
   .dsa 0, .dsa 1, .dsa 2, .dsa 3, .istat, .unlisted, .unlisted, .unlisted,
   .ctest0, .ctest1, .ctest2, .ctest3, .temp 0, .temp 1, .temp 2, .temp 3]

/-- Offsets 0x20 to 0x3F. -/
def bankMap20 : List BankReg :=
  [.dfifo, .ctest4, .ctest5, .ctest6, .dbc 0, .dbc 1, .dbc 2, .dcmd,
   .dnad 0, .dnad 1, .dnad 2, .dnad 3, .dsp 0, .dsp 1, .dsp 2, .dsp 3,
   .dsps 0, .dsps 1, .dsps 2, .dsps 3, .scratch 0 0, .scratch 0 1, .scratch 0 2, .scratch 0 3,
   .dmode, .dien, .sbr, .dcntl, .adder, .adder, .adder, .adder]

/-- Offsets 0x40 to 0x5F. -/
def bankMap40 : List BankReg :=
  [.sien0, .sien1, .sist0, .sist1, .unlisted, .unlisted, .macntl, .gpcntl,
   .stime0, .stime1, .respid0, .respid1, .stest0, .stest1, .stest2, .stest3,
   .sidl, .unlisted, .unlisted, .unlisted, .unlisted, .unlisted, .unlisted, .unlisted,
   .sbdl, .unlisted, .unlisted, .unlisted, .scratch 1 0, .scratch 1 1, .scratch 1 2, .scratch 1 3]

/-- Offsets 0x60 to 0x7F: SCRATCHC to SCRATCHJ. -/
def bankMap60 : List BankReg :=
  [.scratch 2 0, .scratch 2 1, .scratch 2 2, .scratch 2 3,
   .scratch 3 0, .scratch 3 1, .scratch 3 2, .scratch 3 3,
   .scratch 4 0, .scratch 4 1, .scratch 4 2, .scratch 4 3,
   .scratch 5 0, .scratch 5 1, .scratch 5 2, .scratch 5 3,
   .scratch 6 0, .scratch 6 1, .scratch 6 2, .scratch 6 3,
   .scratch 7 0, .scratch 7 1, .scratch 7 2, .scratch 7 3,
   .scratch 8 0, .scratch 8 1, .scratch 8 2, .scratch 8 3,
   .scratch 9 0, .scratch 9 1, .scratch 9 2, .scratch 9 3]

/-- The register that owns an offset; 0x80 to 0xFF are unlisted and alias nothing (R53, R54). -/
def regAt (off : Byte) : BankReg :=
  (bankMap00 ++ bankMap20 ++ bankMap40 ++ bankMap60).getD off.toNat .unlisted

/-! ### Reads (11_register_bank R50) -/

/-- ISTAT.SIP: some SCSI cause is latched (R62). -/
def sip (s : State) : Bool := s.sist0 != 0#8 || s.sist1 != 0#3

/-- ISTAT.DIP: some DMA cause is latched (R62). -/
def dip (s : State) : Bool := s.dstat != 0#7

/-- ISTAT as read (R63). -/
def istatValue (s : State) : Byte :=
  s.istatHi ++ BitVec.ofBool (connected s) ++ BitVec.ofBool s.intf ++ BitVec.ofBool (sip s)
    ++ BitVec.ofBool (dip s)

/-- SBDL as read: the next Message-In byte (R75). -/
def sbdlValue (s : State) : Byte := if s.phase = .msgIn then s.msg.headD 0#8 else 0#8

/-- The byte a register reads as (R52 to R77). -/
def regValue (r : BankReg) (s : State) : Byte :=
  match r with
  | .scntl0 => s.storage.scntl0
  | .scntl1 => s.scntl1
  | .scntl2 => s.storage.scntl2
  | .scntl3 => s.storage.scntl3
  | .scid => s.storage.scid
  | .sxfer => s.storage.sxfer
  | .sdid => s.sdid.setWidth 8
  | .gpreg => s.params.gpregPins
  | .sfbr => s.sfbr
  | .socl => s.socl
  | .ssid => 0#8
  | .sbcl => 0#8
  | .dstat => 1#1 ++ s.dstat
  | .sstat0 => s.sstat0
  | .sstat1 => s.phase.code.setWidth 8
  | .sstat2 => if connected s then 0#8 else 0x02#8
  | .dsa k => lane s.dsa k
  | .istat => istatValue s
  | .ctest0 => 0xFF#8
  | .ctest1 => 0#8
  | .ctest2 => if s.istatHi.getLsbD 1 then 0x61#8 else 0x21#8
  | .ctest3 => s.params.chipRev ++ s.storage.ctest3Lo
  | .temp k => lane s.temp k
  | .dfifo => s.dfifo
  | .ctest4 => s.storage.ctest4
  | .ctest5 => s.ctest5
  | .ctest6 => 0#8
  | .dbc k => lane s.dbc k
  | .dcmd => s.dcmd
  | .dnad k => lane s.dnad k
  | .dsp k => lane s.dsp k
  | .dsps k => lane s.dsps k
  | .dmode => s.dmode
  | .dien => s.dien.setWidth 8
  | .sbr => s.storage.sbr
  | .dcntl => s.dcntl
  | .adder => 0#8
  | .sien0 => s.sien0
  | .sien1 => s.sien1.setWidth 8
  | .sist0 => s.sist0
  | .sist1 => s.sist1.setWidth 8
  | .macntl => 0x0F#8
  | .gpcntl => 0x0F#8
  | .stime0 => s.storage.stime0
  | .stime1 => s.storage.stime1
  | .respid0 => s.storage.respid0
  | .respid1 => s.storage.respid1
  | .stest0 => 0#8
  | .stest1 => s.storage.stest1
  | .stest2 => s.storage.stest2
  | .stest3 => s.storage.stest3
  | .sidl => s.sidl
  | .sbdl => sbdlValue s
  | .scratch j k => lane s.scratch[j] k
  | .unlisted => 0#8

/-- What a read does: DSTAT, SIST0, SIST1 clear and recompute the line, CTEST2 clears SIGP; no other
register has a read effect (R50, R60, R65, R74). -/
def regReadEffect (r : BankReg) (s : State) : State :=
  match r with
  | .dstat => updateIrq { s with dstat := 0#7 }
  | .sist0 => updateIrq { s with sist0 := 0#8 }
  | .sist1 => updateIrq { s with sist1 := 0#3 }
  | .ctest2 => { s with istatHi := s.istatHi &&& 0xD#4 }
  | _ => s

/-- `RegRead(off)`: the byte and the state after (R50). -/
def regRead (off : Byte) (s : State) : Byte × State :=
  (regValue (regAt off) s, regReadEffect (regAt off) s)

/-! ### Writes (11_register_bank R51) -/

/-- SCNTL1 (R55): bit 0 is never stored; RST rising raises the cause RST. -/
def writeScntl1 (b : Byte) (s : State) : State :=
  let s1 := { s with scntl1 := b &&& 0xFE#8 }
  if b.getLsbD 3 then
    if s.sstat0.getLsbD 1 then s1 else raise .rst { s1 with sstat0 := s.sstat0 ||| 0x02#8 }
  else { s1 with sstat0 := s.sstat0 &&& 0xFD#8 }

/-- ISTAT (R64), in its order: store bits 7:4; ABRT; INTF write-1-clear; the SIGP wake; SRST last. -/
def writeIstat (b : Byte) (s : State) : State :=
  let s1 := { s with istatHi := b.extractLsb' 4 4 }
  let s2 := if b.getLsbD 7 then raise .abrt s1 else s1
  let s3 := if b.getLsbD 2 then updateIrq { s2 with intf := false } else s2
  let s4 := if s3.waiting = .reselect ∧ b.getLsbD 5 = true
    then { s3 with waiting := .running, dsp := s3.dnad } else s3
  if b.getLsbD 6 then resetCore s4 else s4

/-- A lane of DSP (R69): after the top lane, `Start()` unless MAN is set or the interpreter runs. -/
def writeDsp (k : Fin 4) (b : Byte) (s : State) : State :=
  let s1 := { s with dsp := setLane s.dsp k b }
  if k = 3 ∧ s.dmode.getLsbD 0 = false ∧ s.sstop = true then start s1 else s1

/-- DCNTL (R72): stored under mask 0xBB; STD starts a stopped interpreter. -/
def writeDcntl (b : Byte) (s : State) : State :=
  let s1 := { s with dcntl := b &&& 0xBB#8 }
  if b.getLsbD 2 = true ∧ s.sstop = true then start s1 else s1

/-- What a write of `b` does (R51 to R77); a read-only register or an unlisted offset ignores it. -/
def regWriteAt (r : BankReg) (b : Byte) (s : State) : State :=
  match r with
  | .scntl0 => { s with storage := { s.storage with scntl0 := b } }
  | .scntl1 => writeScntl1 b s
  | .scntl2 => { s with storage := { s.storage with scntl2 := b &&& 0xF6#8 } }
  | .scntl3 => { s with storage := { s.storage with scntl3 := b } }
  | .scid => { s with storage := { s.storage with scid := b } }
  | .sxfer => { s with storage := { s.storage with sxfer := b } }
  | .sdid => { s with sdid := b.setWidth 4 }
  | .gpreg => s
  | .sfbr => { s with sfbr := b }
  | .socl => { s with socl := b }
  | .ssid => s
  | .sbcl => s
  | .dstat => s
  | .sstat0 => s
  | .sstat1 => s
  | .sstat2 => s
  | .dsa k => { s with dsa := setLane s.dsa k b }
  | .istat => writeIstat b s
  | .ctest0 => s
  | .ctest1 => s
  | .ctest2 => s
  | .ctest3 => { s with storage := { s.storage with ctest3Lo := b.setWidth 4 } }
  | .temp k => { s with temp := setLane s.temp k b }
  | .dfifo => { s with dfifo := b }
  | .ctest4 => { s with storage := { s.storage with ctest4 := b } }
  | .ctest5 => { s with ctest5 := b }
  | .ctest6 => s
  | .dbc k => { s with dbc := setLane s.dbc k b }
  | .dcmd => s
  | .dnad k => { s with dnad := setLane s.dnad k b }
  | .dsp k => writeDsp k b s
  | .dsps k => { s with dsps := setLane s.dsps k b }
  | .dmode => { s with dmode := b }
  | .dien => updateIrq { s with dien := (b &&& 0x7D#8).setWidth 7 }
  | .sbr => { s with storage := { s.storage with sbr := b } }
  | .dcntl => writeDcntl b s
  | .adder => s
  | .sien0 => updateIrq { s with sien0 := b }
  | .sien1 => updateIrq { s with sien1 := b.setWidth 3 }
  | .sist0 => s
  | .sist1 => s
  | .macntl => s
  | .gpcntl => s
  | .stime0 => { s with storage := { s.storage with stime0 := b } }
  | .stime1 => { s with storage := { s.storage with stime1 := b } }
  | .respid0 => { s with storage := { s.storage with respid0 := b } }
  | .respid1 => { s with storage := { s.storage with respid1 := b } }
  | .stest0 => s
  | .stest1 => { s with storage := { s.storage with stest1 := b } }
  | .stest2 => { s with storage := { s.storage with stest2 := b } }
  | .stest3 => { s with storage := { s.storage with stest3 := b } }
  | .sidl => s
  | .sbdl => s
  | .scratch j k => { s with scratch := s.scratch.set j (setLane s.scratch[j] k b) }
  | .unlisted => s

/-- `RegWrite(off, b)` (R51). -/
def regWrite (off b : Byte) (s : State) : State := regWriteAt (regAt off) b s

/-- `RegRead` of `n` offsets ascending, wrapping modulo 256 (45_memory_move R283). -/
def regReads (off : Byte) : Nat → State → List Byte × State
  | 0, s => ([], s)
  | n + 1, s =>
    let (b, s1) := regRead off s
    let (bs, s2) := regReads (off + 1#8) n s1
    (b :: bs, s2)

/-- `RegWrite` of the bytes at ascending offsets, wrapping modulo 256 (45_memory_move R282). -/
def regWrites (off : Byte) : List Byte → State → State
  | [], s => s
  | b :: rest, s => regWrites (off + 1#8) rest (regWrite off b s)

end Sys2Proof.Machine
end

