-- ==== Sys2Proof/Machine/Operands.lean ====
section
/-! DEFINITION. Every operand form: displacements from `dsp` and `dsa`, the alternate address and the id of an
I/O instruction, the address of a Load or Store, the table entry of a Block Move, the second operand of a
read-modify-write, the condition of a Transfer Control instruction. -/

namespace Sys2Proof.Machine

/-- `sext_24(v)` (00_scope R8, 30_encoding R138). -/
def sext24 (v : Word24) : Word := v.signExtend 32

/-- The target of a Jump or Call, and the alternate address of an I/O instruction: absolute, or from the
advanced `dsp` (44_transfer_control R269, 42_io R190). -/
def targetAddr (t : Target) (s : State) : Word :=
  match t with
  | .abs a => a
  | .rel d => s.dsp + sext24 d

/-- An address relative to `dsa` (20_memory R110, R111, 45_memory_move R282). -/
def dsaAddr (off : Word24) (s : State) : Word := s.dsa + sext24 off

/-- The address of a Load or Store (45_memory_move R282). -/
def lsAddr (a : LsAddr) (s : State) : Word :=
  match a with
  | .abs addr => addr
  | .dsaRel off => dsaAddr off s

/-- Bits 19:16 of the id word (42_io R190, 20_memory R111). -/
def idOfWord (w : Word) : TargetId := w.extractLsb' 16 4

/-- The target id of Select (42_io R190). -/
def selectId (src : IdSource) (s : State) : TargetId :=
  match src with
  | .direct id => id
  | .table off => idOfWord (s.mem.word (dsaAddr off s))

/-- The byte count of a table entry: bytes 0 to 2 (20_memory R110). -/
def tableCount (t : Word) (s : State) : Word24 := (s.mem.word t).setWidth 24

/-- The address of a table entry: bytes 4 to 7 (20_memory R110). -/
def tableAddr (t : Word) (s : State) : Word := s.mem.word (t + 4#32)

/-- The second operand of form RM (43_regalu R203). -/
def rmOperand (src : RmSource) (s : State) : Byte :=
  match src with
  | .imm b => b
  | .sfbr => s.sfbr

/-- The data test: `sfbr` against DATA where MASK has 0 (44_transfer_control R261). -/
def dataTest (c : Cond) (s : State) : Bool := s.sfbr &&& ~~~c.mask == c.data &&& ~~~c.mask

/-- The phase test (44_transfer_control R261). -/
def phaseTest (c : Cond) (s : State) : Bool := s.phase.code == c.ph

/-- `Taken`: every enabled test has the value JT (44_transfer_control R261). -/
def taken (c : Cond) (s : State) : Bool :=
  (!c.ct || s.carry == c.jt) && (!c.cp || phaseTest c s == c.jt) && (!c.cd || dataTest c s == c.jt)

end Sys2Proof.Machine
end

