-- ==== Sys2Proof/Machine/PhaseEngine.lean ====
section
/-! DEFINITION. The SCSI phase and transfer engine: the handlers of the six phases (46_phase_engine R294 to
R303). On entry `dnad` is the address operand and `dbc` the count. -/

namespace Sys2Proof.Machine

/-! ### Command phase (46_phase_engine R294) -/

/-- The number of CDB bytes read. -/
def cdbCount (s : State) : Nat := min s.dbc.toNat Config.cdbMax

/-- The twelve bytes of the CDB: those read, then zeros. -/
def cdbBytes (s : State) : List Byte :=
  s.mem.bytes s.dnad (cdbCount s) ++ List.replicate (Config.cdbMax - cdbCount s) 0#8

/-- The state once the CDB is read. -/
def cdbRead (s : State) : State :=
  { s with
    sfbr := if 0 < cdbCount s then (cdbBytes s).headD 0#8 else s.sfbr
    dnad := s.dnad + BitVec.ofNat 32 (cdbCount s)
    dbc := 0#24 }

/-- The transition that the device's answer asks for. -/
def applyReply (reply : Config.DevReply) (s : State) : State :=
  match reply with
  | .dataIn (b :: bs) =>
      setPhase .dataIn { s with request := some { id := s.sdid, buf := b :: bs, pos := 0, dir := .input } }
  | .dataOut (n + 1) =>
      setPhase .dataOut { s with
        request := some { id := s.sdid, buf := List.replicate (n + 1) 0#8, pos := 0, dir := .output } }
  | _ =>
      let (st, s1) := askStatus s.sdid s
      setPhase .status { s1 with status := st }

/-- `CommandPhase()`. -/
def commandPhase (s : State) : State :=
  let cdb := cdbBytes s
  let (present, s1) := askPresent s.sdid (cdbRead s)
  if present then
    let (reply, s2) := askCommand s1.sdid cdb { s1 with request := none }
    { applyReply reply s2 with yield := true }
  else disconnect (raise .sto s1)

/-! ### Data phases (46_phase_engine R296, R297) -/

/-- The data phase is complete: the device is told, its status read, the request released; a residual
count is a phase mismatch (46_phase_engine R296, R297). DESIGN CHOICE (unsafe, log 25): both calls take the
request's id, as the pseudocode of 46_phase_engine R296 does, not `sdid`, as 11_register_bank R57 and 10_state
R24 say; the two differ when SDID was rewritten during the command, and no ruling of the spec settles it. -/
def dataComplete (r : Request) (s : State) : State :=
  let (st, s1) := askStatus r.id (tellData r.id (if r.dir = .output then r.buf else []) s)
  let s2 := { s1 with status := st, request := none }
  setPhase .status (if s2.dbc = 0#24 then s2 else raise .ma s2)

/-- The request once `data` is in place at its position. -/
def Request.fill (r : Request) (data : List Byte) : Request :=
  { r with buf := r.buf.take r.pos ++ data ++ r.buf.drop (r.pos + data.length) }

/-- The bytes moved by a data phase: the count or what the device still holds. -/
def dataCount (r : Request) (s : State) : Nat := min s.dbc.toNat (r.dmaLen - r.pos)

/-- The move itself: Data-Out fills the request's buffer by the DMA Unit, Data-In empties it. -/
def moveData (d : Direction) (r : Request) (addr : Word) (count : Nat) (s : State) : Request × State :=
  match d with
  | .output =>
      let (data, s1) := dmaRead addr count s
      (r.fill data, s1)
  | .input => (r, dmaWrite addr ((r.buf.drop r.pos).take count) s)

/-- The state once the count is fixed: `dnad` advanced, `dbc` reduced, the script DMA in flight. -/
def burst (r : Request) (s : State) : State :=
  { s with
    waiting := .dma
    dnad := s.dnad + BitVec.ofNat 32 (dataCount r s)
    dbc := s.dbc - BitVec.ofNat 24 (dataCount r s) }

/-- The request and the state after the move, which starts at the old `dnad`. -/
def burstMove (d : Direction) (r : Request) (s : State) : Request × State :=
  moveData d r s.dnad (dataCount r s) (burst r s)

/-- The request with its position advanced. -/
def burstRequest (d : Direction) (r : Request) (s : State) : Request :=
  { (burstMove d r s).1 with pos := (burstMove d r s).1.pos + dataCount r s }

/-- The state with the advanced request in it. -/
def burstDone (d : Direction) (r : Request) (s : State) : State :=
  { (burstMove d r s).2 with request := some (burstRequest d r s) }

/-- `DataPhase(d)`. With no request nothing moves. -/
def dataPhase (d : Direction) (s : State) : State :=
  match s.request with
  | none => s
  | some r =>
    { (if (burstRequest d r s).pos = (burstRequest d r s).dmaLen then
        dataComplete (burstRequest d r s) (burstDone d r s) else burstDone d r s) with
      waiting := .running }

/-! ### Status phase (46_phase_engine R298) -/

/-- `StatusPhase()`: exactly one byte moves, whatever the count. -/
def statusPhase (s : State) : State :=
  let s1 := dmaWrite s.dnad [s.status] { s with sfbr := s.status }
  addMsgByte 0x00#8 (setPhase .msgIn
    { s1 with dnad := s.dnad + 1#32, dbc := 0#24, msgAction := .disconnect })

/-! ### Message-In (46_phase_engine R299) -/

/-- The action taken when the message buffer has drained. -/
def doMsgAction (s : State) : State :=
  match s.msgAction with
  | .command => setPhase .command s
  | .disconnect => disconnect s
  | .dataOut => setPhase .dataOut s
  | .dataIn => setPhase .dataIn s

/-- The transfer of the buffered bytes, up to the count. -/
def sendMessages (s : State) : State :=
  let len := min s.msg.length s.dbc.toNat
  if 0 < len then
    let s1 := dmaWrite s.dnad (s.msg.take len) { s with sfbr := s.msg.headD 0#8 }
    { s1 with
      sidl := s.msg.getD (len - 1) 0#8
      dnad := s.dnad + BitVec.ofNat 32 len
      dbc := s.dbc - BitVec.ofNat 24 len
      msg := s.msg.drop len }
  else s

/-- `MessageIn()`. -/
def messageIn (s : State) : State :=
  let s1 := sendMessages s
  if s1.msg = [] then doMsgAction s1 else s1

/-! ### Message-Out (46_phase_engine R301 to R303) -/

/-- `Skip(k)`: the count saturates at 0. -/
def skipBytes (k : Nat) (s : State) : State :=
  { s with dnad := s.dnad + BitVec.ofNat 32 k, dbc := satSub s.dbc (BitVec.ofNat 24 k) }

/-- `GetMsgByte()`: plain memory, and it reads even when the count is 0 (R302). -/
def getMsgByte (s : State) : Byte × State := (s.mem.byte s.dnad, skipBytes 1 s)

/-- `Reject()`: a Message Reject is queued for the next Message-In. -/
def rejectMessage (s : State) : State :=
  { addMsgByte 0x07#8 (setPhase .msgIn s) with msgAction := .command }

/-- An extended message: the length byte is unused; synchronous and wide negotiation are accepted and
ignored; any other code is rejected. The Boolean says whether the block goes on. -/
def extendedMessage (s : State) : State × Bool :=
  let (_, s1) := getMsgByte s
  let (code, s2) := getMsgByte s1
  if code = 0x01#8 then (skipBytes 2 s2, true)
  else if code = 0x03#8 then (skipBytes 1 s2, true)
  else (rejectMessage s2, false)

/-- A queue tag message: the next byte is the tag. -/
def queueTag (s : State) : State :=
  let (tag, s1) := getMsgByte s
  { s1 with selectTag := tag, tagValid := true }

/-- What the message `m` does, and whether the block goes on (message codes: R303). -/
def messageEffect (m : Byte) (s : State) : State × Bool :=
  if m = 0x04#8 then (disconnect s, true)
  else if m = 0x08#8 then (setPhase .command s, true)
  else if m = 0x01#8 then extendedMessage s
  else if m = 0x20#8 ∨ m = 0x21#8 ∨ m = 0x22#8 then (queueTag s, true)
  else if m = 0x0D#8 ∨ m = 0x06#8 ∨ m = 0x0E#8 ∨ m = 0x0C#8 then
    (disconnect { s with request := none }, true)
  else if m.getLsbD 7 then (setPhase .command { s with currentLun := m.extractLsb' 0 3 }, true)
  else (rejectMessage s, false)

/-- The loop of Message-Out. Every round takes at least one byte off `dbc`, so as many rounds as `dbc`
holds are enough (log 20). -/
def messageOutLoop : Nat → State → State
  | 0, s => s
  | fuel + 1, s =>
    if s.dbc = 0#24 then s
    else
      let (m, s1) := getMsgByte s
      let (s2, goOn) := messageEffect m { s1 with sfbr := m }
      if goOn then messageOutLoop fuel s2 else s2

/-- `MessageOut()`. -/
def messageOut (s : State) : State := messageOutLoop s.dbc.toNat s

/-! ### Dispatch (41_block_move R184) -/

/-- The handler of the current phase. -/
def runHandler (s : State) : State :=
  match s.phase with
  | .dataOut => dataPhase .output s
  | .dataIn => dataPhase .input s
  | .command => commandPhase s
  | .status => statusPhase s
  | .msgOut => messageOut s
  | .msgIn => messageIn s

end Sys2Proof.Machine
end

