-- ==== Sys2Proof/Machine/BlockMove.lean ====
section
/-! DEFINITION. Class 0, Block Move (41_block_move R180 to R186). -/

namespace Sys2Proof.Machine

/-- `dbc <- count; rbc <- dbc` (41_block_move R180, R183). -/
def loadCount (count : Word24) (s : State) : State := { s with dbc := count, rbc := count }

/-- Bookkeeping after the handler (41_block_move R185). -/
def blockBookkeeping (s : State) : State :=
  { s with
    dfifo := s.dbc.extractLsb' 0 8
    ctest5 := s.ctest5.extractLsb' 2 6 ++ s.dbc.extractLsb' 8 2
    rbc := satSub s.rbc s.dbc }

/-- The phase check, the handler, the bookkeeping (41_block_move R184, R185). -/
def checkedTransfer (ph : BitVec 3) (addr : Word) (s : State) : State :=
  if s.phase.code = ph then blockBookkeeping (runHandler { s with dnad := addr }) else raise .ma s

/-- The common template: the delayed selection-timeout stop first (41_block_move R180), then the transfer. -/
def blockMove (ph : BitVec 3) (count : Word24) (addr : Word) (s : State) : State :=
  if stoLatched s then stop s else checkedTransfer ph addr (loadCount count s)

/-- MOVE, direct (41_block_move R181). -/
def execMove (ph : BitVec 3) (count : Word24) (addr : Word) (s : State) :
    Host.Outcome State Fault Refusal :=
  .next (blockMove ph count addr s)

/-- MOVE.IND: the address is read through a pointer (41_block_move R182). -/
def execMoveInd (ph : BitVec 3) (count : Word24) (ptr : Word) (s : State) :
    Host.Outcome State Fault Refusal :=
  .next (blockMove ph count (s.mem.word ptr) s)

/-- MOVE.TBL: count and address come from the table entry at `dsa + off` (41_block_move R183). -/
def execMoveTbl (ph : BitVec 3) (off : Word24) (s : State) : Host.Outcome State Fault Refusal :=
  .next (blockMove ph (tableCount (dsaAddr off s) s) (tableAddr (dsaAddr off s) s) s)

end Sys2Proof.Machine
end

