-- ==== Sys2Proof/Machine/IoInstr.lean ====
section
/-! DEFINITION. Class 1, I/O instructions (42_io R190 to R195). -/

namespace Sys2Proof.Machine

/-- The prelude of all five: `dnad` is the alternate address (42_io R190). With TBL = 1 the table word is
read too; memory reads change nothing, and only Select uses it (log 14). -/
def ioPrelude (alt : Target) (s : State) : State := { s with dnad := targetAddr alt s }

/-- Select once `dnad`, `sdid` and `sel_atn` are set (42_io R191). -/
def selectTarget (atn : Bool) (id : TargetId) (s : State) : State :=
  if connected s then { s with dsp := s.dnad }
  else
    let s1 := { s with sstat0 := s.sstat0 ||| 0x04#8, scntl1 := s.scntl1 &&& 0xFD#8 }
    let (present, s2) := askPresent id s1
    if present then
      setPhase .msgOut { s2 with
        scntl1 := s2.scntl1 ||| 0x10#8
        socl := if atn then s2.socl ||| 0x08#8 else s2.socl
        waiting := .running }
    else disconnect (raise .sto s2)

/-- SELECT (42_io R191). -/
def execSelect (atn : Bool) (src : IdSource) (alt : Target) (s : State) :
    Host.Outcome State Fault Refusal :=
  let id := selectId src s
  .next (selectTarget atn id { ioPrelude alt s with sdid := id, selAtn := atn })

/-- WAIT_DISCONNECT (42_io R192). -/
def execWaitDisconnect (_tbl : Option Word24) (alt : Target) (s : State) :
    Host.Outcome State Fault Refusal :=
  .next { disconnect (ioPrelude alt s) with waiting := .running }

/-- WAIT_RESELECT (42_io R193). -/
def execWaitReselect (_tbl : Option Word24) (alt : Target) (s : State) :
    Host.Outcome State Fault Refusal :=
  .next { ioPrelude alt s with waiting := .reselect }

/-- SET: ATN also takes the target to Message-Out; the target-mode bit has no effect (42_io R194). -/
def execSet (f : IoFlags) (_tbl : Option Word24) (alt : Target) (s : State) :
    Host.Outcome State Fault Refusal :=
  let s1 := ioPrelude alt s
  let s2 := if f.atn then setPhase .msgOut { s1 with socl := s1.socl ||| 0x08#8 } else s1
  let s3 := if f.ack then { s2 with socl := s2.socl ||| 0x40#8 } else s2
  .next (if f.carry then { s3 with carry := true } else s3)

/-- CLEAR: the phase stays (42_io R195). -/
def execClear (f : IoFlags) (_tbl : Option Word24) (alt : Target) (s : State) :
    Host.Outcome State Fault Refusal :=
  let s1 := ioPrelude alt s
  let s2 := if f.atn then { s1 with socl := s1.socl &&& 0xF7#8 } else s1
  let s3 := if f.ack then { s2 with socl := s2.socl &&& 0xBF#8 } else s2
  .next (if f.carry then { s3 with carry := false } else s3)

end Sys2Proof.Machine
end

