-- ==== Sys2Proof/Machine/MemoryMove.lean ====
section
/-! DEFINITION. Class 3, Memory Move and Load/Store (45_memory_move R280 to R284). -/

namespace Sys2Proof.Machine

/-- MOVE_MEMORY (45_memory_move R281): `dst` is the third word, which the decoder has read from where `dsp`
points (log 12); the whole source is read before any byte is written. -/
def execMoveMemory (count : Word24) (src dst : Word) (s : State) : Host.Outcome State Fault Refusal :=
  let (data, s1) := dmaRead src count.toNat { s with dsp := s.dsp + 4#32 }
  .next (dmaWrite dst data s1)

/-- LOAD (45_memory_move R282): the address and all the bytes are read before any register is written. -/
def execLoad (reg : Byte) (n : BitVec 3) (a : LsAddr) (s : State) : Host.Outcome State Fault Refusal :=
  .next (regWrites reg (s.mem.bytes (lsAddr a s) n.toNat) s)

/-- STORE (45_memory_move R283): the registers are read, side effects included, then the bytes written. -/
def execStore (reg : Byte) (n : BitVec 3) (a : LsAddr) (s : State) : Host.Outcome State Fault Refusal :=
  let (bytes, s1) := regReads reg n.toNat s
  .next (memWrite (lsAddr a s) bytes s1)

end Sys2Proof.Machine
end

