-- ==== Sys2Proof/Machine/Flags.lean ====
section
/-! DEFINITION. The register ALU: what each operator computes and how it leaves `carry`
(43_regalu R210 to R218). -/

namespace Sys2Proof.Machine

/-- The carry as a number. -/
def carryNat (c : Bool) : Nat := if c then 1 else 0

/-- A 9-bit sum: its low byte, and its bit 8 as the new carry (43_regalu R216, R217). -/
def addBytes (a b : Byte) (cin : Bool) : Byte × Bool :=
  let s := a.toNat + b.toNat + carryNat cin
  (BitVec.ofNat 8 s, decide (255 < s))

/-- Shift left through carry: a 9-bit rotate left of `carry:a` (43_regalu R211). -/
def shiftLeft (a : Byte) (cin : Bool) : Byte × Bool :=
  (a.extractLsb' 0 7 ++ BitVec.ofBool cin, a.getLsbD 7)

/-- Shift right through carry: a 9-bit rotate right of `a:carry` (43_regalu R215). -/
def shiftRight (a : Byte) (cin : Bool) : Byte × Bool :=
  (BitVec.ofBool cin ++ a.extractLsb' 1 7, a.getLsbD 0)

/-- The result and the carry after an operator (43_regalu R210 to R217). -/
def aluResult (op : AluOp) (a b : Byte) (cin : Bool) : Byte × Bool :=
  match op with
  | .mov => (b, cin)
  | .shl => shiftLeft a cin
  | .or => (a ||| b, cin)
  | .xor => (a ^^^ b, cin)
  | .and => (a &&& b, cin)
  | .shr => shiftRight a cin
  | .add => addBytes a b false
  | .adc => addBytes a b cin

end Sys2Proof.Machine
end

