-- ==== Sys2Proof/Machine/RegAlu.lean ====
section
/-! DEFINITION. Class 1, register ALU instructions: the three forms (43_regalu R201 to R203) over the operators
(R210 to R217), and the 24 instructions (R230 to R253). -/

namespace Sys2Proof.Machine

/-- Form FS, from SFBR (43_regalu R201): `reg` is never read. -/
def aluFromSfbr (op : AluOp) (reg imm : Byte) (s : State) : State :=
  let (r, c) := aluResult op s.sfbr imm s.carry
  regWrite reg r { s with carry := c }

/-- The first operand of forms TS and RM: MOV reads no register (43_regalu R202, R203). -/
def aluFirst (op : AluOp) (reg : Byte) (s : State) : Byte × State :=
  if op = .mov then (0#8, s) else regRead reg s

/-- Form TS, to SFBR (43_regalu R202): `reg` is never written. -/
def aluToSfbr (op : AluOp) (reg imm : Byte) (s : State) : State :=
  let (a, s1) := aluFirst op reg s
  let (r, c) := aluResult op a imm s1.carry
  { s1 with carry := c, sfbr := r }

/-- Form RM, read-modify-write (43_regalu R203): the read comes before the write. -/
def aluModify (op : AluOp) (reg : Byte) (src : RmSource) (s : State) : State :=
  let (a, s1) := aluFirst op reg s
  let (r, c) := aluResult op a (rmOperand src s1) s1.carry
  regWrite reg r { s1 with carry := c }

/-- MOV.FS (43_regalu R230). -/
def execMovFs (reg imm : Byte) (s : State) : Host.Outcome State Fault Refusal :=
  .next (aluFromSfbr .mov reg imm s)

/-- SHL.FS (43_regalu R231). -/
def execShlFs (reg imm : Byte) (s : State) : Host.Outcome State Fault Refusal :=
  .next (aluFromSfbr .shl reg imm s)

/-- OR.FS (43_regalu R232). -/
def execOrFs (reg imm : Byte) (s : State) : Host.Outcome State Fault Refusal :=
  .next (aluFromSfbr .or reg imm s)

/-- XOR.FS (43_regalu R233). -/
def execXorFs (reg imm : Byte) (s : State) : Host.Outcome State Fault Refusal :=
  .next (aluFromSfbr .xor reg imm s)

/-- AND.FS (43_regalu R234). -/
def execAndFs (reg imm : Byte) (s : State) : Host.Outcome State Fault Refusal :=
  .next (aluFromSfbr .and reg imm s)

/-- SHR.FS (43_regalu R235). -/
def execShrFs (reg imm : Byte) (s : State) : Host.Outcome State Fault Refusal :=
  .next (aluFromSfbr .shr reg imm s)

/-- ADD.FS (43_regalu R236). -/
def execAddFs (reg imm : Byte) (s : State) : Host.Outcome State Fault Refusal :=
  .next (aluFromSfbr .add reg imm s)

/-- ADC.FS (43_regalu R237). -/
def execAdcFs (reg imm : Byte) (s : State) : Host.Outcome State Fault Refusal :=
  .next (aluFromSfbr .adc reg imm s)

/-- MOV.TS (43_regalu R238). -/
def execMovTs (reg imm : Byte) (s : State) : Host.Outcome State Fault Refusal :=
  .next (aluToSfbr .mov reg imm s)

/-- SHL.TS (43_regalu R239). -/
def execShlTs (reg imm : Byte) (s : State) : Host.Outcome State Fault Refusal :=
  .next (aluToSfbr .shl reg imm s)

/-- OR.TS (43_regalu R240). -/
def execOrTs (reg imm : Byte) (s : State) : Host.Outcome State Fault Refusal :=
  .next (aluToSfbr .or reg imm s)

/-- XOR.TS (43_regalu R241). -/
def execXorTs (reg imm : Byte) (s : State) : Host.Outcome State Fault Refusal :=
  .next (aluToSfbr .xor reg imm s)

/-- AND.TS (43_regalu R242). -/
def execAndTs (reg imm : Byte) (s : State) : Host.Outcome State Fault Refusal :=
  .next (aluToSfbr .and reg imm s)

/-- SHR.TS (43_regalu R243). -/
def execShrTs (reg imm : Byte) (s : State) : Host.Outcome State Fault Refusal :=
  .next (aluToSfbr .shr reg imm s)

/-- ADD.TS (43_regalu R244). -/
def execAddTs (reg imm : Byte) (s : State) : Host.Outcome State Fault Refusal :=
  .next (aluToSfbr .add reg imm s)

/-- ADC.TS (43_regalu R245). -/
def execAdcTs (reg imm : Byte) (s : State) : Host.Outcome State Fault Refusal :=
  .next (aluToSfbr .adc reg imm s)

/-- MOV.RM (43_regalu R246). -/
def execMovRm (reg : Byte) (src : RmSource) (s : State) : Host.Outcome State Fault Refusal :=
  .next (aluModify .mov reg src s)

/-- SHL.RM (43_regalu R247). -/
def execShlRm (reg : Byte) (src : RmSource) (s : State) : Host.Outcome State Fault Refusal :=
  .next (aluModify .shl reg src s)

/-- OR.RM (43_regalu R248). -/
def execOrRm (reg : Byte) (src : RmSource) (s : State) : Host.Outcome State Fault Refusal :=
  .next (aluModify .or reg src s)

/-- XOR.RM (43_regalu R249). -/
def execXorRm (reg : Byte) (src : RmSource) (s : State) : Host.Outcome State Fault Refusal :=
  .next (aluModify .xor reg src s)

/-- AND.RM (43_regalu R250). -/
def execAndRm (reg : Byte) (src : RmSource) (s : State) : Host.Outcome State Fault Refusal :=
  .next (aluModify .and reg src s)

/-- SHR.RM (43_regalu R251). -/
def execShrRm (reg : Byte) (src : RmSource) (s : State) : Host.Outcome State Fault Refusal :=
  .next (aluModify .shr reg src s)

/-- ADD.RM (43_regalu R252). -/
def execAddRm (reg : Byte) (src : RmSource) (s : State) : Host.Outcome State Fault Refusal :=
  .next (aluModify .add reg src s)

/-- ADC.RM (43_regalu R253). -/
def execAdcRm (reg : Byte) (src : RmSource) (s : State) : Host.Outcome State Fault Refusal :=
  .next (aluModify .adc reg src s)

end Sys2Proof.Machine
end

