-- ==== Sys2Proof/Machine/RunLoop.lean ====
section
/-! DEFINITION. Fetch, PAD, the run loop and the external events (40_dispatch R160 to R172, 70_reset R375). -/

namespace Sys2Proof.Machine

/-! ### Fetch (40_dispatch R161) -/

/-- The first word of the next instruction. -/
def fetchWord (s : State) : Word := s.mem.word s.dsp

/-- The instruction at `dsp`. `w1` is looked at only when `w0` is not zero, `w2` only for a Memory Move
(30_encoding R130); memory reads change nothing. -/
def fetchInstr (s : State) : Instr :=
  decodeWords (fetchWord s) (s.mem.word (s.dsp + 4#32)) (s.mem.word (s.dsp + 8#32))

/-- What the fetch changes: `icount`; and, but for the zero word, `dsps`, `dcmd` and `dsp`. The zero word's
own advance is the meaning of PAD (R162). -/
def fetched (s : State) : State :=
  if fetchWord s = 0#32 then { s with icount := s.icount + 1 }
  else { s with
    icount := s.icount + 1
    dsps := s.mem.word (s.dsp + 4#32)
    dcmd := (fetchWord s).extractLsb' 24 8
    dsp := s.dsp + 8#32 }

/-- PAD (40_dispatch R162). -/
def execPad (s : State) : Host.Outcome State Fault Refusal := .next { s with dsp := s.dsp + 4#32 }

/-! ### The run loop (40_dispatch R165) -/

/-- The loop goes on: neither stopped nor waiting. -/
def running (s : State) : Bool := !s.sstop && decide (s.waiting = .running)

/-- `Run()` returns to the Scheduler. -/
def leaveRun (s : State) : State := { s with inRun := false }

/-- DCNTL.SSM: single-step mode (40_dispatch R170). -/
def singleStep (s : State) : Bool := s.dcntl.getLsbD 4

/-- What the loop does after an instruction: the budget (R169), the stop and wait tests, single step
(R170), the yield (R168). -/
def endOfInstruction (s : State) : State :=
  if Config.budget < s.icount ∧ s.waiting = .running then leaveRun (disconnect (raise .udc s))
  else if running s = false then leaveRun s
  else if singleStep s then leaveRun (raise .ssi s)
  else if s.yield then leaveRun s
  else s

/-- The state in which `Run()` begins its loop. -/
def enterRun (s : State) : State := { s with icount := 0, yield := false, inRun := true }

/-- `Tick` (40_dispatch R167). -/
def tick (s : State) : State := if running s then enterRun s else s

/-! ### External events -/

/-- One event of the host or the Scheduler (10_state R10, 70_reset R375). -/
def hostEvent (e : HostEvent) (s : State) : State :=
  match e with
  | .read off =>
      let (b, s1) := regRead off s
      giveHost off b s1
  | .write off b => regWrite off b s
  | .reset => resetCore s
  | .tick => tick s
  | .memStore addr b => memWrite addr [b] s

/-- Between activations the next event lands; when none is listed the Scheduler ticks (log 4). -/
def externalEvent (s : State) : State :=
  match s.inbox with
  | [] => tick s
  | e :: rest => hostEvent e { s with inbox := rest }

/-! ### Placing an instruction -/

/-- The machine inside an activation that has just begun, its next fetch at `dsp` finding the instruction
whose bits are `w`, bits from `nbits` up zero (log 6). -/
def placeInstruction (s : State) (nbits w : Nat) : State :=
  { s with
    mem := s.mem.store s.dsp (tableBytes nbits w)
    sstop := false
    waiting := .running
    icount := 0
    yield := false
    inRun := true }

end Sys2Proof.Machine
end

