-- ==== Sys2Proof/Machine/TransferControl.lean ====
section
/-! DEFINITION. Class 2, Transfer Control (44_transfer_control R260 to R271). -/

namespace Sys2Proof.Machine

/-- The template of the gated instructions (44_transfer_control R260): the delayed selection-timeout stop
(R263), then the condition (R261); `done` is the state if the transfer is taken. -/
def gated (c : Cond) (s done : State) : State :=
  if stoLatched s then stop s else if taken c s then done else s

/-- JUMP (44_transfer_control R264). -/
def execJump (c : Cond) (t : Target) (s : State) : Host.Outcome State Fault Refusal :=
  .next (gated c s { s with dsp := targetAddr t s })

/-- CALL: `temp` is the address of the instruction after the CALL (44_transfer_control R265). -/
def execCall (c : Cond) (t : Target) (s : State) : Host.Outcome State Fault Refusal :=
  .next (gated c s { s with temp := s.dsp, dsp := targetAddr t s })

/-- RETURN: `temp` is unchanged (44_transfer_control R266). -/
def execRet (c : Cond) (s : State) : Host.Outcome State Fault Refusal :=
  .next (gated c s { s with dsp := s.temp })

/-- INT: the cause SIR; the fetch has put the vector in `dsps` (44_transfer_control R267). -/
def execInt (c : Cond) (_vector : Word) (s : State) : Host.Outcome State Fault Refusal :=
  .next (gated c s (raise .sir s))

/-- INTFLY: the flag INTF; the script goes on (44_transfer_control R267). -/
def execIntfly (c : Cond) (_vector : Word) (s : State) : Host.Outcome State Fault Refusal :=
  .next (gated c s (updateIrq { s with intf := true }))

/-- NOP: nothing beyond the fetch, not even the delayed stop (44_transfer_control R262). -/
def execNop (s : State) : Host.Outcome State Fault Refusal := .next s

/-- TC.ILLEGAL: the cause IID, before any test (44_transfer_control R268). -/
def execTcIllegal (_opc : BitVec 2) (s : State) : Host.Outcome State Fault Refusal :=
  .next (raise .iid s)

end Sys2Proof.Machine
end

