-- ==== Sys2Proof/Machine/Dispatch.lean ====
section
/-! DEFINITION. `Dispatch` (40_dispatch R163): the meaning of each instruction, one arm per constructor. -/

namespace Sys2Proof.Machine

def exec (i : Instr) (s : State) : Host.Outcome State Fault Refusal :=
  match i with
  | .pad => Sys2Proof.Machine.execPad s
  | .moveInd ph count ptr => Sys2Proof.Machine.execMoveInd ph count ptr s
  | .moveTbl ph off => Sys2Proof.Machine.execMoveTbl ph off s
  | .move ph count addr => Sys2Proof.Machine.execMove ph count addr s
  | .select atn id alt => Sys2Proof.Machine.execSelect atn id alt s
  | .waitDisconnect tbl alt => Sys2Proof.Machine.execWaitDisconnect tbl alt s
  | .waitReselect tbl alt => Sys2Proof.Machine.execWaitReselect tbl alt s
  | .set flags tbl alt => Sys2Proof.Machine.execSet flags tbl alt s
  | .clear flags tbl alt => Sys2Proof.Machine.execClear flags tbl alt s
  | .movFs reg imm => Sys2Proof.Machine.execMovFs reg imm s
  | .shlFs reg imm => Sys2Proof.Machine.execShlFs reg imm s
  | .orFs reg imm => Sys2Proof.Machine.execOrFs reg imm s
  | .xorFs reg imm => Sys2Proof.Machine.execXorFs reg imm s
  | .andFs reg imm => Sys2Proof.Machine.execAndFs reg imm s
  | .shrFs reg imm => Sys2Proof.Machine.execShrFs reg imm s
  | .addFs reg imm => Sys2Proof.Machine.execAddFs reg imm s
  | .adcFs reg imm => Sys2Proof.Machine.execAdcFs reg imm s
  | .movTs reg imm => Sys2Proof.Machine.execMovTs reg imm s
  | .shlTs reg imm => Sys2Proof.Machine.execShlTs reg imm s
  | .orTs reg imm => Sys2Proof.Machine.execOrTs reg imm s
  | .xorTs reg imm => Sys2Proof.Machine.execXorTs reg imm s
  | .andTs reg imm => Sys2Proof.Machine.execAndTs reg imm s
  | .shrTs reg imm => Sys2Proof.Machine.execShrTs reg imm s
  | .addTs reg imm => Sys2Proof.Machine.execAddTs reg imm s
  | .adcTs reg imm => Sys2Proof.Machine.execAdcTs reg imm s
  | .movRm reg src => Sys2Proof.Machine.execMovRm reg src s
  | .shlRm reg src => Sys2Proof.Machine.execShlRm reg src s
  | .orRm reg src => Sys2Proof.Machine.execOrRm reg src s
  | .xorRm reg src => Sys2Proof.Machine.execXorRm reg src s
  | .andRm reg src => Sys2Proof.Machine.execAndRm reg src s
  | .shrRm reg src => Sys2Proof.Machine.execShrRm reg src s
  | .addRm reg src => Sys2Proof.Machine.execAddRm reg src s
  | .adcRm reg src => Sys2Proof.Machine.execAdcRm reg src s
  | .tcIllegal opc => Sys2Proof.Machine.execTcIllegal opc s
  | .nop => Sys2Proof.Machine.execNop s
  | .jump c target => Sys2Proof.Machine.execJump c target s
  | .call c target => Sys2Proof.Machine.execCall c target s
  | .ret c => Sys2Proof.Machine.execRet c s
  | .int c vector => Sys2Proof.Machine.execInt c vector s
  | .intfly c vector => Sys2Proof.Machine.execIntfly c vector s
  | .moveMemory count src dst => Sys2Proof.Machine.execMoveMemory count src dst s
  | .load reg n addr => Sys2Proof.Machine.execLoad reg n addr s
  | .store reg n addr => Sys2Proof.Machine.execStore reg n addr s

end Sys2Proof.Machine
end

