-- ==== Sys2Proof/Machine/Step.lean ====
section
/-! DEFINITION. One step: inside an activation, one instruction and what the run loop does after it
(40_dispatch R161 to R165); between activations, one external event (70_reset R375). -/

namespace Sys2Proof.Machine

/-- One step of the machine (log 5). -/
def step (s : State) : Host.Outcome State Fault Refusal :=
  if s.inRun then
    if running s then
      match exec (fetchInstr s) (fetched s) with
      | .next t => .next (endOfInstruction t)
      | .fault r => .fault r
      | .refused r => .refused r
    else .next (leaveRun s)
  else .next (externalEvent s)

/-- `s` with the instruction whose bits are `w` stored where `step` fetches its next instruction, and the
machine in the activation that runs it (log 6). -/
def State.withFetchWord (s : State) (nbits w : Nat) : State := placeInstruction s nbits w

end Sys2Proof.Machine
end

