-- ==== Sys2Proof/Safety.lean ====
section
/-! DEFINITION. What holds between steps, in the terms the statements use: the properties of 10_state R44 and
their neighbours, one predicate each. None of them is assumed by the machine; the statements say that every
step keeps them and that reset has them. -/

namespace Sys2Proof.Machine

/-- Guest memory is in its canonical form. -/
def MemoryCanonical (s : State) : Prop := s.mem.wf = true

/-- The interrupt line is the expression of 60_exceptions R335: "its value after every event" (R334). -/
def LineFollowsCauses (s : State) : Prop := s.irq = irqValue s

/-- 10_state R44, the clauses that the types do not already give: at most eight buffered message bytes,
`waiting` is 0 or 1, a request's position is within its buffer. -/
structure ProtocolBounds (s : State) : Prop where
  messages : s.msg.length ≤ Config.msgMax
  waiting : s.waiting ≠ .dma
  request : ∀ r, s.request = some r → r.pos ≤ r.dmaLen

/-- 46_phase_engine R296: in a data phase a request's direction is the phase's; and Message-In actions 2 and 3
are never armed (10_state R36). -/
structure RequestMatchesPhase (s : State) : Prop where
  action : s.msgAction = .command ∨ s.msgAction = .disconnect
  out : s.phase = .dataOut → ∀ r, s.request = some r → r.dir = .output
  inp : s.phase = .dataIn → ∀ r, s.request = some r → r.dir = .input

/-- The bits the bank never stores (11_register_bank R55, R56, R61, R71, R72) and the causes this core never
raises (60_exceptions R330, R333) are 0. -/
structure ReservedBitsClear (s : State) : Prop where
  scntl1 : s.scntl1 &&& 0x01#8 = 0#8
  scntl2 : s.storage.scntl2 &&& 0x09#8 = 0#8
  sstat0 : s.sstat0 &&& 0xF9#8 = 0#8
  dien : s.dien &&& 0x02#7 = 0#7
  dcntl : s.dcntl &&& 0x44#8 = 0#8
  sist0 : s.sist0 &&& 0x79#8 = 0#8
  sist1 : s.sist1 &&& 3#3 = 0#3
  dstat : s.dstat &&& 0x62#7 = 0#7

/-- Inside an activation no more than `BUDGET` instructions have been fetched (40_dispatch R169, R172). -/
def WithinBudget (s : State) : Prop := s.inRun = true → s.icount ≤ Config.budget

end Sys2Proof.Machine
end

