-- ==== Sys2Proof/Certificates/Slice0/Obligations.lean ====
section
/-! DEFINITION. The statements for the provers, one `def Obligations.<Name> : Prop` each, and before them the
words of the spec that they use, written from the rules and not from the machine's own definitions. -/

namespace Sys2Proof.Claims

open Sys2Proof.Machine

/-! ### Encoding (30_encoding) -/

/-- The bits of an I/O instruction's first word that are not ignored, when no table offset is there. -/
def orTable (tbl : Option Word24) (m : Word) : Word := if tbl.isSome then 0xFEFFFFFF#32 else m

/-- The bits of `w1` that a target uses: all, or its displacement (30_encoding R133, R135, R137). -/
def targetMask : Target → Word
  | .abs _ => 0xFFFFFFFF#32
  | .rel _ => 0x00FFFFFF#32

/-- The bits of `w1` that a Load or Store uses (30_encoding R137). -/
def lsMask : LsAddr → Word
  | .abs _ => 0xFFFFFFFF#32
  | .dsaRel _ => 0x00FFFFFF#32

/-- The bits of `w0` that decide an instruction or are its operands; the others are ignored (30_encoding R132
to R137, R141). -/
def firstMask : Instr → Word
  | .pad => 0xFFFFFFFF#32
  | .moveInd _ _ _ => 0xE7FFFFFF#32
  | .moveTbl _ _ => 0xF7000000#32
  | .move _ _ _ => 0xF7FFFFFF#32
  | .select _ (.direct _) _ => 0xFF0F0000#32
  | .select _ (.table _) _ => 0xFFFFFFFF#32
  | .waitDisconnect tbl _ => orTable tbl 0xFE000000#32
  | .waitReselect tbl _ => orTable tbl 0xFE000000#32
  | .set _ tbl _ => orTable tbl 0xFE000648#32
  | .clear _ tbl _ => orTable tbl 0xFE000648#32
  | .movRm _ (.sfbr) | .shlRm _ (.sfbr) | .orRm _ (.sfbr) | .xorRm _ (.sfbr)
  | .andRm _ (.sfbr) | .shrRm _ (.sfbr) | .addRm _ (.sfbr) | .adcRm _ (.sfbr) => 0xFFFF0080#32
  | .movRm _ _ | .shlRm _ _ | .orRm _ _ | .xorRm _ _
  | .andRm _ _ | .shrRm _ _ | .addRm _ _ | .adcRm _ _ => 0xFFFFFF80#32
  | .movFs _ _ | .shlFs _ _ | .orFs _ _ | .xorFs _ _
  | .andFs _ _ | .shrFs _ _ | .addFs _ _ | .adcFs _ _
  | .movTs _ _ | .shlTs _ _ | .orTs _ _ | .xorTs _ _
  | .andTs _ _ | .shrTs _ _ | .addTs _ _ | .adcTs _ _ => 0xFF7FFF80#32
  | .tcIllegal _ => 0xF8000000#32
  | .nop => 0xE02E0000#32
  | .jump _ _ => 0xFFAEFFFF#32
  | .call _ _ => 0xFFAEFFFF#32
  | .ret _ => 0xFF2EFFFF#32
  | .int _ _ => 0xFF3EFFFF#32
  | .intfly _ _ => 0xFF3EFFFF#32
  | .moveMemory _ _ _ => 0xE0FFFFFF#32
  | .load _ _ _ => 0xF1FF0007#32
  | .store _ _ _ => 0xF1FF0007#32

/-- The bits of `w1` that are an operand (30_encoding R132 to R137, R141). -/
def secondMask : Instr → Word
  | .moveInd _ _ _ | .move _ _ _ | .int _ _ | .intfly _ _ | .moveMemory _ _ _ => 0xFFFFFFFF#32
  | .moveTbl _ _ => 0x00FFFFFF#32
  | .select _ _ alt => targetMask alt
  | .waitDisconnect _ alt => targetMask alt
  | .waitReselect _ alt => targetMask alt
  | .set _ _ alt => targetMask alt
  | .clear _ _ alt => targetMask alt
  | .jump _ t => targetMask t
  | .call _ t => targetMask t
  | .load _ _ a => lsMask a
  | .store _ _ a => lsMask a
  | _ => 0#32

/-- The bits of a third word that are an operand: those of a Memory Move (30_encoding R136). -/
def thirdMask : Instr → Word
  | .moveMemory _ _ _ => 0xFFFFFFFF#32
  | _ => 0#32

/-! ### Addresses and tests -/

/-- `sext_24(v)`, written out (30_encoding R138). -/
def sext (v : Word24) : Word := if v.getLsbD 23 then v.setWidth 32 + 0xFF000000#32 else v.setWidth 32

/-- The target of a Jump or Call and the alternate address (44_transfer_control R269, 42_io R190): absolute, or
from the advanced `dsp`. -/
def address (t : Target) (s : State) : Word :=
  match t with
  | .abs a => a
  | .rel d => s.dsp + sext d

/-- The address of a Load or Store (45_memory_move R282). -/
def dataAddress (a : LsAddr) (s : State) : Word :=
  match a with
  | .abs w => w
  | .dsaRel d => s.dsa + sext d

/-- The little-endian word at an address (20_memory R103). -/
def wordAt (s : State) (a : Word) : Word :=
  (s.mem.byte a).setWidth 32 ||| (s.mem.byte (a + 1#32)).setWidth 32 <<< 8 |||
    (s.mem.byte (a + 2#32)).setWidth 32 <<< 16 ||| (s.mem.byte (a + 3#32)).setWidth 32 <<< 24

/-- The target id of Select (42_io R190): the operand, or bits 19:16 of the table word. -/
def selectedId (src : IdSource) (s : State) : TargetId :=
  match src with
  | .direct id => id
  | .table off => (wordAt s (s.dsa + sext off)).extractLsb' 16 4

/-- Every enabled test of a condition has the value JT (44_transfer_control R261). -/
def TestsAgree (c : Cond) (s : State) : Prop :=
  (c.ct = true → s.carry = c.jt) ∧
  (c.cp = true → (s.phase.code = c.ph ↔ c.jt = true)) ∧
  (c.cd = true → (s.sfbr &&& ~~~c.mask = c.data &&& ~~~c.mask ↔ c.jt = true))

/-- STO is latched and not yet read (41_block_move R180, 44_transfer_control R263). -/
def StoPending (s : State) : Prop := s.sist1.getLsbD 2 = true

/-! ### Causes (60_exceptions) -/

/-- The interrupt line over the causes and enables of a state (60_exceptions R335). -/
def line (s : State) : Bool :=
  decide (s.dstat &&& s.dien ≠ 0#7 ∨ s.sist0 &&& s.sien0 ≠ 0#8 ∨ s.sist1 &&& s.sien1 ≠ 0#3 ∨ s.intf = true)

/-- A state with its line recomputed. -/
def lined (s : State) : State := { s with irq := line s }

/-- A DMA cause latched: the interpreter stopped, the line recomputed (60_exceptions R337). -/
def dmaCause (d : BitVec 7) (s : State) : State := lined { s with dstat := s.dstat ||| d, sstop := true }

/-- A SCSI cause of the first register latched, which always stops (60_exceptions R336). -/
def scsiCause (d : Byte) (s : State) : State := lined { s with sist0 := s.sist0 ||| d, sstop := true }

/-- A selection timeout latched: it stops only with something else latched (60_exceptions R336). -/
def timeoutCause (s : State) : State :=
  lined { s with
    sist1 := s.sist1 ||| 4#3
    sstop := s.sstop || decide (s.sist0 ≠ 0#8 ∨ s.sist1 &&& 3#3 ≠ 0#3) }

/-- `Disconnect()` written out (46_phase_engine R300). -/
def offBus (s : State) : State :=
  { s with
    scntl1 := s.scntl1 &&& 0xEF#8
    phase := if s.selAtn then .msgIn else .dataOut
    request := none }

/-! ### The run loop -/

/-- What a fetch leaves (40_dispatch R161): `icount`, and for all but the zero word `dsps`, `dcmd`, `dsp`. -/
def afterFetch (i : Instr) (s : State) : State :=
  if i = .pad then { s with icount := s.icount + 1 }
  else { s with
    icount := s.icount + 1
    dsps := wordAt s (s.dsp + 4#32)
    dcmd := s.mem.byte (s.dsp + 3#32)
    dsp := s.dsp + 8#32 }

/-! ### The register bank (11_register_bank R53, R54) -/

/-- The PLAIN offsets. -/
def plainOffsets : List Byte :=
  [0x00#8, 0x03#8, 0x04#8, 0x05#8, 0x08#8, 0x09#8, 0x20#8, 0x21#8, 0x22#8, 0x38#8, 0x3A#8, 0x40#8,
   0x48#8, 0x49#8, 0x4A#8, 0x4B#8, 0x4D#8, 0x4E#8, 0x4F#8]

/-- The LANE offsets of DSA, TEMP, DBC, DNAD, DSP, DSPS, SCRATCHA, and of SCRATCHB to SCRATCHJ. -/
def isLane (off : Byte) : Bool :=
  decide (0x10 ≤ off.toNat ∧ off.toNat ≤ 0x13 ∨ 0x1C ≤ off.toNat ∧ off.toNat ≤ 0x1F ∨
    0x24 ≤ off.toNat ∧ off.toNat ≤ 0x26 ∨ 0x28 ≤ off.toNat ∧ off.toNat ≤ 0x37 ∨
    0x5C ≤ off.toNat ∧ off.toNat ≤ 0x7F)

/-- The bits a write stores: all for PLAIN and LANE, the mask for MASKED, none for the other classes. -/
def storedMask (off : Byte) : Option Byte :=
  if off ∈ plainOffsets ∨ isLane off = true then some 0xFF#8
  else if off = 0x02#8 then some 0xF6#8
  else if off = 0x06#8 then some 0x0F#8
  else if off = 0x39#8 then some 0x7D#8
  else if off = 0x41#8 then some 0x07#8
  else none

/-- The CONST offsets other than GPREG, with their constants (11_register_bank R76). -/
def constants : List (Byte × Byte) :=
  [(0x0A#8, 0x00#8), (0x0B#8, 0x00#8), (0x18#8, 0xFF#8), (0x19#8, 0x00#8), (0x23#8, 0x00#8),
   (0x3C#8, 0x00#8), (0x3D#8, 0x00#8), (0x3E#8, 0x00#8), (0x3F#8, 0x00#8), (0x46#8, 0x0F#8),
   (0x47#8, 0x0F#8), (0x4C#8, 0x00#8)]

/-- The UNLISTED offsets (11_register_bank R53, R54). -/
def isUnlisted (off : Byte) : Bool :=
  decide (0x15 ≤ off.toNat ∧ off.toNat ≤ 0x17 ∨ off.toNat = 0x44 ∨ off.toNat = 0x45 ∨
    0x51 ≤ off.toNat ∧ off.toNat ≤ 0x57 ∨ 0x59 ≤ off.toNat ∧ off.toNat ≤ 0x5B ∨ 0x80 ≤ off.toNat)

/-- The bit of a Boolean as the low bit of a byte. -/
def bit (b : Bool) : Byte := if b then 1#8 else 0#8

/-- The offset of lane `k` of scratch register `j` (0 = A, 1 = B, 2 to 9 = C to J; 11_register_bank R54). -/
def scratchOffset (j : Fin 10) (k : Fin 4) : Byte :=
  if j.val = 0 then BitVec.ofNat 8 (0x34 + k.val) else BitVec.ofNat 8 (0x58 + 4 * j.val + k.val)

/-- Two states that differ at most in what a register of the bank holds: everything out of the bank's reach
is the same (10_state R19, R33 to R43 but `sstop`, and the surroundings). -/
structure SameHidden (s t : State) : Prop where
  carry : t.carry = s.carry
  phase : t.phase = s.phase
  waiting : t.waiting = s.waiting
  msg : t.msg = s.msg
  msgAction : t.msgAction = s.msgAction
  request : t.request = s.request
  status : t.status = s.status
  selAtn : t.selAtn = s.selAtn
  currentLun : t.currentLun = s.currentLun
  selectTag : t.selectTag = s.selectTag
  tagValid : t.tagValid = s.tagValid
  icount : t.icount = s.icount
  rbc : t.rbc = s.rbc
  yield : t.yield = s.yield
  mem : t.mem = s.mem
  params : t.params = s.params
  io : t.io = s.io
  inRun : t.inRun = s.inRun
  inbox : t.inbox = s.inbox

/-! ### Classes of instructions -/

/-- The operators that write `carry`, and Set and Clear with the carry bit (43_regalu R218, 10_state R19). -/
def writesCarry : Instr → Bool
  | .shlFs _ _ | .shrFs _ _ | .addFs _ _ | .adcFs _ _ => true
  | .shlTs _ _ | .shrTs _ _ | .addTs _ _ | .adcTs _ _ => true
  | .shlRm _ _ | .shrRm _ _ | .addRm _ _ | .adcRm _ _ => true
  | .set f _ _ => f.carry
  | .clear f _ _ => f.carry
  | _ => false

/-- The instruction writes the bank at ISTAT, through which it may reset the core. -/
def writesIstat : Instr → Bool
  | .movFs r _ | .shlFs r _ | .orFs r _ | .xorFs r _ | .andFs r _ | .shrFs r _ | .addFs r _ | .adcFs r _ =>
      r == 0x14#8
  | .movRm r _ | .shlRm r _ | .orRm r _ | .xorRm r _ | .andRm r _ | .shrRm r _ | .addRm r _ | .adcRm r _ =>
      r == 0x14#8
  | .load r n _ => decide ((0x14#8 - r).toNat < n.toNat)
  | _ => false

/-- The instructions that can store to guest memory. -/
def mayStore : Instr → Bool
  | .move _ _ _ | .moveInd _ _ _ | .moveTbl _ _ | .moveMemory _ _ _ | .store _ _ _ => true
  | _ => false

/-- A Block Move of any form. -/
def isBlockMove : Instr → Bool
  | .move _ _ _ | .moveInd _ _ _ | .moveTbl _ _ => true
  | _ => false

/-- The gated Transfer Control instruction of a condition: JUMP, CALL, RETURN, INT, INTFLY. -/
inductive Gated : Cond → Instr → Prop where
  | jump (c : Cond) (t : Target) : Gated c (.jump c t)
  | call (c : Cond) (t : Target) : Gated c (.call c t)
  | ret (c : Cond) : Gated c (.ret c)
  | int (c : Cond) (v : Word) : Gated c (.int c v)
  | intfly (c : Cond) (v : Word) : Gated c (.intfly c v)

/-- `i` is a Block Move, direct, indirect or table indirect, with this expected phase, and in state `s` this
count and this address (41_block_move R181 to R183). -/
inductive BlockMove (s : State) : Instr → BitVec 3 → Word24 → Word → Prop where
  | direct (ph : BitVec 3) (count : Word24) (addr : Word) :
      BlockMove s (.move ph count addr) ph count addr
  | indirect (ph : BitVec 3) (count : Word24) (ptr : Word) :
      BlockMove s (.moveInd ph count ptr) ph count (wordAt s ptr)
  | table (ph : BitVec 3) (off : Word24) :
      BlockMove s (.moveTbl ph off) ph ((wordAt s (s.dsa + sext off)).extractLsb' 0 24)
        (wordAt s (s.dsa + sext off + 4#32))

/-- The bookkeeping of a Block Move of `count` bytes, from the residual `dbc` (41_block_move R185). -/
def booked (count : Word24) (s : State) : State :=
  { s with
    dfifo := s.dbc.setWidth 8
    ctest5 := (s.ctest5 &&& 0xFC#8) ||| ((s.dbc >>> 8).setWidth 8 &&& 0x03#8)
    rbc := BitVec.ofNat 24 (count.toNat - s.dbc.toNat) }

/-! ### Message-Out (46_phase_engine R301, R302) -/

/-- `GetMsgByte()` and `Skip(k)` on `dnad` and `dbc`: the count saturates at 0. -/
def skip (k : Nat) (s : State) : State :=
  { s with dnad := s.dnad + BitVec.ofNat 32 k, dbc := BitVec.ofNat 24 (s.dbc.toNat - k) }

/-- `Reject()`. -/
def rejected (s : State) : State :=
  { s with
    phase := .msgIn
    msg := if s.msg.length < 8 then s.msg ++ [0x07#8] else s.msg
    msgAction := .command }

/-- One round of the loop of Message-Out with `dbc > 0`, and whether the loop goes on. -/
def messageRound (s : State) : State × Bool :=
  let m := s.mem.byte s.dnad
  let s1 := { skip 1 s with sfbr := m }
  if m = 0x04#8 then (offBus s1, true)
  else if m = 0x08#8 then ({ s1 with phase := .command }, true)
  else if m = 0x01#8 then
    if s.mem.byte (s.dnad + 2#32) = 0x01#8 then (skip 2 (skip 1 (skip 1 s1)), true)
    else if s.mem.byte (s.dnad + 2#32) = 0x03#8 then (skip 1 (skip 1 (skip 1 s1)), true)
    else (rejected (skip 1 (skip 1 s1)), false)
  else if m = 0x20#8 ∨ m = 0x21#8 ∨ m = 0x22#8 then
    ({ skip 1 s1 with selectTag := s.mem.byte (s.dnad + 1#32), tagValid := true }, true)
  else if m = 0x0D#8 ∨ m = 0x06#8 ∨ m = 0x0E#8 ∨ m = 0x0C#8 then (offBus s1, true)
  else if m.toNat < 0x80 then (rejected s1, false)
  else ({ s1 with currentLun := m.setWidth 3, phase := .command }, true)

end Sys2Proof.Claims

open Sys2Proof Sys2Proof.Machine Sys2Proof.Claims

/-! ### Encoding (30_encoding) -/

/-- O1. Decoding the encoding of a well-formed instruction gives the instruction and the bytes after it
(30_encoding R130 to R139): no operand bit is dropped. -/
def Obligations.DecodeInvertsEncode : Prop :=
  ∀ (i : Instr) (rest : List Byte), i.wf = true → decode (encodeBytes i ++ rest) = .ok (i, rest)

/-- O2. The decoder and the opcode table in decode order agree on every first word: mnemonic and length
(30_encoding R130, R139). -/
def Obligations.DecoderFollowsOpcodeTable : Prop :=
  ∀ w0 w1 w2 : Word, ∃ r, rowOf w0 = some r ∧ r.mnemonic = (decodeWords w0 w1 w2).mnemonic ∧
    r.bytes = instrBytes w0

/-- O3. What the decoder answers is well formed: no gated instruction with the NOP pattern, no flags that
disagree with a table offset (30_encoding R133, R139, 44_transfer_control R262). -/
def Obligations.DecodedInstructionsAreWellFormed : Prop :=
  ∀ w0 w1 w2 : Word, (decodeWords w0 w1 w2).wf = true

/-- O4. Ignored bits may have any value: words that agree on the bits that are not ignored decode alike
(30_encoding R141; which bits are ignored: R132 to R137; the zero word is PAD whatever its masks, R130). -/
def Obligations.IgnoredBitsDoNotMatter : Prop :=
  ∀ (w0 w1 w2 v0 v1 v2 : Word) (i : Instr), w0 ≠ 0#32 → v0 ≠ 0#32 → decodeWords w0 w1 w2 = i →
    v0 &&& firstMask i = w0 &&& firstMask i → v1 &&& secondMask i = w1 &&& secondMask i →
    v2 &&& thirdMask i = w2 &&& thirdMask i → decodeWords v0 v1 v2 = i

/-- O5. Words written out from the encodings decode to the instructions they stand for: the examples of
40_dispatch R162, 41_block_move R181, 42_io R191, R194, 43_regalu R244, R249, 44_transfer_control R264, R267,
R268, 45_memory_move R281 to R283. -/
def Obligations.SampleWordsDecode : Prop :=
  decodeTableWord 32 0x00000000 = some .pad ∧
  decodeTableWord 64 0x0000200006000001 = some (.move 6#3 1#24 0x2000#32) ∧
  decodeTableWord 64 0x000020000E000001 = some (.move 6#3 1#24 0x2000#32) ∧
  decodeTableWord 64 0x0000010041020000 = some (.select true (.direct 2#4) (.abs 0x100#32)) ∧
  decodeTableWord 64 0x0000000058000400 =
    some (.set { carry := true, trg := false, ack := false, atn := false } none (.abs 0#32)) ∧
  decodeTableWord 64 0x0000000076348100 = some (.addTs 0x34#8 0x81#8) ∧
  decodeTableWord 64 0x000000007BB48100 = some (.xorRm 0x34#8 .sfbr) ∧
  decodeTableWord 64 0x00002000830B0000 = some (.jump
    { ct := false, jt := true, cd := false, cp := true, ph := 3#3, mask := 0#8, data := 0#8 } (.abs 0x2000#32)) ∧
  decodeTableWord 64 0x0000ABCD98080000 = some (.int
    { ct := false, jt := true, cd := false, cp := false, ph := 0#3, mask := 0#8, data := 0#8 } 0xABCD#32) ∧
  decodeTableWord 64 0x00000000A0000000 = some (.tcIllegal 0#2) ∧
  decodeTableWord 96 0x0000300000002000C0000004 = some (.moveMemory 4#24 0x2000#32 0x3000#32) ∧
  decodeTableWord 64 0x00000020F1340004 = some (.load 0x34#8 4#3 (.dsaRel 0x20#24)) ∧
  decodeTableWord 64 0x00005000E01C0004 = some (.store 0x1C#8 4#3 (.abs 0x5000#32))

/-! ### Steps and activations (40_dispatch) -/

/-- O6. Inside an activation, when the bytes at `dsp` decode to an instruction, `step` is that instruction run
after the fetch, then the checks of the run loop (40_dispatch R161, R163, R164; the checks: RunLoopChecks). That
a step is one instruction is the model's reading of the spec's activation (DEDUCED, log 5). -/
def Obligations.StepRunsDecodedInstruction : Prop :=
  ∀ (s : State) (i : Instr) (rest : List Byte), s.inRun = true → s.sstop = false → s.waiting = .running →
    decode (s.mem.bytes s.dsp 12) = .ok (i, rest) →
    ∃ t, exec i (afterFetch i s) = .next t ∧ step s = .next (endOfInstruction t)

/-- O7. The model's hook: a word placed in canonical memory is the instruction the very next step runs (what
`withFetchWord` stands for is the model's choice, log 6). -/
def Obligations.PlacedInstructionRuns : Prop :=
  ∀ (s : State) (nbits w : Nat) (i : Instr), MemoryCanonical s → decodeTableWord nbits w = some i →
    ∃ t, exec i (afterFetch i (s.withFetchWord nbits w)) = .next t ∧
      step (s.withFetchWord nbits w) = .next (endOfInstruction t)

/-- O8. `Tick` starts an activation when the interpreter is neither stopped nor waiting, else does nothing
(40_dispatch R167; the first lines of `Run`, R165). The rule runs the whole of `Run()`: that this step only begins
it, by `inRun`, and that the loop goes on in the next steps is the model's granularity (DEDUCED, log 5), and that
`Tick` is an event taken off `inbox` is the model's choice (DESIGN CHOICE, log 4). -/
def Obligations.TickStartsActivation : Prop :=
  ∀ (s : State) (rest : List HostEvent), s.inRun = false → s.inbox = .tick :: rest →
    (s.sstop = false ∧ s.waiting = .running →
      step s = .next { s with inbox := rest, icount := 0, yield := false, inRun := true }) ∧
    (s.sstop = true ∨ s.waiting ≠ .running → step s = .next { s with inbox := rest })

/-- O9. What the run loop does after an instruction, in its order: the budget of 10000 fetches raises UDC and
disconnects, a stopped or waiting core returns, single step raises SSI and returns, a yield returns, else the
loop goes on (40_dispatch R165, R168 to R170). That the loop returns by clearing `inRun` and goes on in the next
step is the model's granularity (DEDUCED, log 5). -/
def Obligations.RunLoopChecks : Prop :=
  ∀ s t : State, s.inRun = true → s.sstop = false → s.waiting = .running →
    exec (fetchInstr s) (fetched s) = .next t →
    step s = .next
      (if 10000 < t.icount ∧ t.waiting = .running then { offBus (scsiCause 0x04#8 t) with inRun := false }
      else if t.sstop = true ∨ t.waiting ≠ .running then { t with inRun := false }
      else if t.dcntl.getLsbD 4 = true then { dmaCause 0x08#7 t with inRun := false }
      else if t.yield = true then { t with inRun := false }
      else t)

/-- O10. Every activation ends: from every state at most 10001 steps lead out of it (40_dispatch R172, which
the spec marks as derived from R165 and R169; a step inside it is one instruction: DEDUCED, log 5). -/
def Obligations.ActivationTerminates : Prop :=
  ∀ s : State, ∃ (k : Nat) (t : State), k ≤ 10001 ∧ Host.Core.run Sys2Proof.core k s = .next t ∧ t.inRun = false

/-- O11. Only `Start()` restarts a stopped interpreter: a write of the top DSP lane with MAN clear, or of
DCNTL with STD, between activations (10_state R33, 40_dispatch R166, R171). -/
def Obligations.OnlyStartRestarts : Prop :=
  ∀ s t : State, step s = .next t → s.sstop = true → t.sstop = false →
    s.inRun = false ∧ ∃ b rest,
      (s.inbox = .write 0x2F#8 b :: rest ∧ s.dmode.getLsbD 0 = false) ∨
      (s.inbox = .write 0x3B#8 b :: rest ∧ b.getLsbD 2 = true)

/-- O12. Inside an activation no external event is taken and no parameter changes (10_state R10, R11,
70_reset R375; `inRun` and the list of events are the model's: DEDUCED, log 5, and DESIGN CHOICE, log 4). -/
def Obligations.ActivationsShutTheHostOut : Prop :=
  ∀ s t : State, s.inRun = true → step s = .next t → t.inbox = s.inbox ∧ t.params = s.params

/-- O13. A host access between activations is the bank operation itself; the byte a read returns goes to the
host; a host store to guest memory changes that byte alone (11_register_bank R50, R51, R78, 10_state R10; the
list of events is the model's, log 4, and so is the event of a store, log 16). -/
def Obligations.HostAccessesUseTheBank : Prop :=
  ∀ (s : State) (rest : List HostEvent), s.inRun = false →
    (∀ off b, s.inbox = .write off b :: rest → step s = .next (regWrite off b { s with inbox := rest })) ∧
    (∀ off, s.inbox = .read off :: rest →
      step s = .next (giveHost off (regRead off { s with inbox := rest }).1
        (regRead off { s with inbox := rest }).2)) ∧
    (∀ a b, s.inbox = .memStore a b :: rest → MemoryCanonical s → ∃ t, step s = .next t ∧
      t = { s with inbox := rest, mem := t.mem } ∧ t.mem.byte a = b ∧
      ∀ p, p ≠ a → t.mem.byte p = s.mem.byte p)

/-! ### Invariants of every step -/

/-- O14. Every step keeps guest memory in its canonical form (the model's form of 20_memory R100, R101). -/
def Obligations.StepKeepsMemoryCanonical : Prop :=
  ∀ s t : State, MemoryCanonical s → step s = .next t → MemoryCanonical t

/-- O15. Every step keeps the interrupt line equal to the causes under their enables, or INTF (60_exceptions
R334, R335). -/
def Obligations.StepKeepsLineOfCauses : Prop :=
  ∀ s t : State, LineFollowsCauses s → step s = .next t → LineFollowsCauses t

/-- O16. Every step keeps the bounds of 10_state R44: at most 8 message bytes, `waiting` 0 or 1, a request's
position within its buffer. -/
def Obligations.StepKeepsProtocolBounds : Prop :=
  ∀ s t : State, ProtocolBounds s → step s = .next t → ProtocolBounds t

/-- O17. Every step keeps a request's direction that of the data phase, and Message-In actions 2 and 3 unarmed
(46_phase_engine R296, 10_state R36). -/
def Obligations.StepKeepsRequestDirection : Prop :=
  ∀ s t : State, RequestMatchesPhase s → step s = .next t → RequestMatchesPhase t

/-- O18. Every step keeps 0 the bits that no rule stores or raises (11_register_bank R55, R56, R61, R71, R72,
60_exceptions R330). -/
def Obligations.StepKeepsReservedBits : Prop :=
  ∀ s t : State, ReservedBitsClear s → step s = .next t → ReservedBitsClear t

/-- O19. Every step keeps the count of fetches within the budget inside an activation (40_dispatch R169). -/
def Obligations.StepKeepsWithinBudget : Prop :=
  ∀ s t : State, WithinBudget s → step s = .next t → WithinBudget t

/-- O20. The state after reset has every one of these invariants. -/
def Obligations.ResetHasEveryInvariant : Prop :=
  MemoryCanonical State.reset ∧ LineFollowsCauses State.reset ∧ ProtocolBounds State.reset ∧
  RequestMatchesPhase State.reset ∧ ReservedBitsClear State.reset ∧ WithinBudget State.reset

/-! ### Reset (70_reset) -/

/-- O21. Hard reset gives every element the value of 70_reset R371 and leaves guest memory, the chip's
parameters and the outside world alone (R370; `inRun` and the events to come are the model's own, log 7). -/
def Obligations.HardResetSetsEveryElement : Prop :=
  ∀ (s : State) (rest : List HostEvent), s.inRun = false → s.inbox = .reset :: rest →
    step s = .next
      { dsp := 0, temp := 0, dbc := 0, dnad := 0, dsa := 0, dsps := 0, dcmd := 0x40, carry := false
        sfbr := 0, scratch := Vector.replicate 10 0
        storage := { scntl0 := 0xC0, scntl2 := 0, scntl3 := 0, scid := 0x07, sxfer := 0, ctest3Lo := 0, ctest4 := 0
                     sbr := 0, stime0 := 0, stime1 := 0, respid0 := 0x80, respid1 := 0, stest1 := 0, stest2 := 0
                     stest3 := 0 }
        scntl1 := 0, sdid := 0, socl := 0, phase := .dataOut, sstat0 := 0, sidl := 0, sist0 := 0, sist1 := 0
        dstat := 0, sien0 := 0, sien1 := 0, dien := 0, intf := false, istatHi := 0, irq := false, dmode := 0
        dcntl := 0, dfifo := 0, ctest5 := 0, sstop := true, waiting := .running, msg := [], msgAction := .command
        request := none, status := 0, selAtn := false, currentLun := 0, selectTag := 0, tagValid := false
        icount := 0, rbc := 0, yield := false
        mem := s.mem, params := s.params, inRun := false, inbox := rest, io := s.io }

/-! ### The register bank (11_register_bank) -/

/-- O22. Write then read: a PLAIN or LANE offset reads the byte written, a MASKED one the byte under its mask,
and no other class has this property (11_register_bank R79). -/
def Obligations.WriteThenReadBack : Prop :=
  (∀ (off b m : Byte) (s : State), storedMask off = some m → (regRead off (regWrite off b s)).1 = b &&& m) ∧
  (∀ off : Byte, storedMask off = none → ∃ (b : Byte) (s : State), (regRead off (regWrite off b s)).1 ≠ b)

/-- O23. A write to a PLAIN, LANE or MASKED offset changes what no other offset reads: a lane write affects
only that lane (11_register_bank R52, R53). -/
def Obligations.BankWriteTouchesOneByte : Prop :=
  ∀ (off other b m : Byte) (s : State), storedMask off = some m → other ≠ off →
    (regRead other (regWrite off b s)).1 = (regRead other s).1

/-- O24. Reads: CTEST2 reads 0x21 with SIGP at bit 6 and clears SIGP; SIST0, SIST1 and DSTAT (with bit 7 set)
read their causes and clear them, the line follows and `sstop` stays; writes to these four are ignored; no
other read changes anything (11_register_bank R50, R60, R65, R74). -/
def Obligations.BankReadEffects : Prop :=
  ∀ s : State,
    regRead 0x1A#8 s = (if s.istatHi.getLsbD 1 then 0x61#8 else 0x21#8,
      { s with istatHi := s.istatHi &&& 0xD#4 }) ∧
    regRead 0x42#8 s = (s.sist0, lined { s with sist0 := 0#8 }) ∧
    regRead 0x43#8 s = (s.sist1.setWidth 8, lined { s with sist1 := 0#3 }) ∧
    regRead 0x0C#8 s = (s.dstat.setWidth 8 ||| 0x80#8, lined { s with dstat := 0#7 }) ∧
    (∀ off b : Byte, off ∈ [0x1A#8, 0x42#8, 0x43#8, 0x0C#8] → regWrite off b s = s) ∧
    (∀ off : Byte, off ∉ [0x1A#8, 0x42#8, 0x43#8, 0x0C#8] → (regRead off s).2 = s)

/-- O25. CONST offsets read their constants whatever was written, GPREG the pins, DCMD `dcmd`, UNLISTED offsets
0; writes to all of them are ignored (11_register_bank R53, R68, R76). -/
def Obligations.ConstantOffsetsIgnoreWrites : Prop :=
  ∀ (off b : Byte) (s : State),
    (∀ c, (off, c) ∈ constants → (regRead off s).1 = c ∧ regWrite off b s = s) ∧
    (off = 0x07#8 → (regRead off s).1 = s.params.gpregPins ∧ regWrite off b s = s) ∧
    (off = 0x27#8 → (regRead off s).1 = s.dcmd ∧ regWrite off b s = s) ∧
    (isUnlisted off = true → (regRead off s).1 = 0#8 ∧ regWrite off b s = s)

/-- O26. Live reads: SSTAT0, the phase in SSTAT1, the disconnect bit of SSTAT2, ISTAT as its fields, CTEST3 with
the chip revision, SIDL, and SBDL as the next Message-In byte; writes to the read-only ones are ignored and a
write to CTEST3 stores its low half (11_register_bank R61, R63, R66, R75). -/
def Obligations.LiveRegisterReads : Prop :=
  ∀ (b : Byte) (s : State),
    (regRead 0x0D#8 s).1 = s.sstat0 ∧ (regRead 0x0E#8 s).1 = s.phase.code.setWidth 8 ∧
    (regRead 0x0F#8 s).1 = (if s.scntl1.getLsbD 4 then 0x00#8 else 0x02#8) ∧
    regRead 0x14#8 s = (s.istatHi.setWidth 8 <<< 4 ||| bit (s.scntl1.getLsbD 4) <<< 3 ||| bit s.intf <<< 2 |||
      bit (decide (s.sist0 ≠ 0#8 ∨ s.sist1 ≠ 0#3)) <<< 1 ||| bit (decide (s.dstat ≠ 0#7)), s) ∧
    (regRead 0x1B#8 s).1 = s.params.chipRev.setWidth 8 <<< 4 ||| s.storage.ctest3Lo.setWidth 8 ∧
    regWrite 0x1B#8 b s = { s with storage := { s.storage with ctest3Lo := b.setWidth 4 } } ∧
    (regRead 0x50#8 s).1 = s.sidl ∧
    (∀ m rest, s.phase = .msgIn → s.msg = m :: rest → (regRead 0x58#8 s).1 = m) ∧
    (s.phase ≠ .msgIn ∨ s.msg = [] → (regRead 0x58#8 s).1 = 0#8) ∧
    (∀ off ∈ [0x0D#8, 0x0E#8, 0x0F#8, 0x50#8, 0x58#8], regWrite off b s = s)

/-- O27. A write of ISTAT, in its order: bits 7:4 stored; ABRT raises the cause; INTF clears on 1; SIGP wakes a
waiting interpreter at `dnad`; SRST resets last (11_register_bank R64). -/
def Obligations.IstatWrite : Prop :=
  ∀ (b : Byte) (s : State),
    regWrite 0x14#8 b s =
      let s1 := { s with istatHi := (b >>> 4).setWidth 4 }
      let s2 := if b.getLsbD 7 then dmaCause 0x10#7 s1 else s1
      let s3 := if b.getLsbD 2 then lined { s2 with intf := false } else s2
      let s4 := if s.waiting = .reselect ∧ b.getLsbD 5 = true
        then { s3 with waiting := .running, dsp := s.dnad } else s3
      if b.getLsbD 6 then resetCore s4 else s4

/-- O28. A write of SCNTL1 stores all bits but bit 0; RST rising latches SSTAT0.RST, raises the cause RST and
stops; RST low clears SSTAT0.RST; RST held raises nothing; the register reads as stored (11_register_bank R55). -/
def Obligations.Scntl1Write : Prop :=
  ∀ (b : Byte) (s : State),
    (regRead 0x01#8 s).1 = s.scntl1 ∧
    regWrite 0x01#8 b s =
      if b.getLsbD 3 = false then
        { s with scntl1 := b &&& 0xFE#8, sstat0 := s.sstat0 &&& 0xFD#8 }
      else if s.sstat0.getLsbD 1 = true then { s with scntl1 := b &&& 0xFE#8 }
      else scsiCause 0x02#8 { s with scntl1 := b &&& 0xFE#8, sstat0 := s.sstat0 ||| 0x02#8 }

/-- O29. The start of the interpreter: a write of the top DSP lane with MAN clear, or of DCNTL with STD, clears
`sstop` and nothing more; lower DSP lanes only store; DCNTL stores under mask 0xBB and reads as stored
(11_register_bank R69, R72, 40_dispatch R166). -/
def Obligations.DspAndDcntlWrites : Prop :=
  ∀ (b : Byte) (s : State),
    regWrite 0x2C#8 b s = { s with dsp := s.dsp.extractLsb' 8 24 ++ b } ∧
    regWrite 0x2D#8 b s = { s with dsp := s.dsp.extractLsb' 16 16 ++ b ++ s.dsp.extractLsb' 0 8 } ∧
    regWrite 0x2E#8 b s = { s with dsp := s.dsp.extractLsb' 24 8 ++ b ++ s.dsp.extractLsb' 0 16 } ∧
    regWrite 0x2F#8 b s =
      { s with
        dsp := b ++ s.dsp.extractLsb' 0 24
        sstop := s.sstop && s.dmode.getLsbD 0 } ∧
    regWrite 0x3B#8 b s = { s with dcntl := b &&& 0xBB#8, sstop := s.sstop && !b.getLsbD 2 } ∧
    (regRead 0x3B#8 s).1 = s.dcntl

/-- O30. Writes of the enables DIEN, SIEN0 and SIEN1 store under their masks and recompute the line; they read
as stored (11_register_bank R71, R73, 60_exceptions R335). -/
def Obligations.EnableWrites : Prop :=
  ∀ (b : Byte) (s : State),
    regWrite 0x39#8 b s = lined { s with dien := (b &&& 0x7D#8).setWidth 7 } ∧
    regWrite 0x40#8 b s = lined { s with sien0 := b } ∧
    regWrite 0x41#8 b s = lined { s with sien1 := (b &&& 0x07#8).setWidth 3 } ∧
    (regRead 0x39#8 s).1 = s.dien.setWidth 8 ∧ (regRead 0x40#8 s).1 = s.sien0 ∧
    (regRead 0x41#8 s).1 = s.sien1.setWidth 8

/-- O31. The frame of a bank write: but for ISTAT, a write leaves all that is not in the bank as it was; causes
change only through SCNTL1 (and ISTAT), `sstop` only through SCNTL1, DSP's top lane and DCNTL (and ISTAT)
(11_register_bank R51 to R77). -/
def Obligations.BankWriteFrame : Prop :=
  ∀ (off b : Byte) (s : State), off ≠ 0x14#8 →
    SameHidden s (regWrite off b s) ∧
    (regWrite off b s).dstat = s.dstat ∧ (regWrite off b s).sist1 = s.sist1 ∧
    (regWrite off b s).intf = s.intf ∧ (regWrite off b s).istatHi = s.istatHi ∧
    (off ≠ 0x01#8 → (regWrite off b s).sist0 = s.sist0) ∧
    (off ∉ [0x01#8, 0x2F#8, 0x3B#8] → (regWrite off b s).sstop = s.sstop)

/-! ### Causes (60_exceptions) -/

/-- O32. Taking an exception: a cause is latched, the line recomputed, the interpreter stopped as R336 and R337
say, and nothing else changes: nothing is saved and `dsp` is not redirected (60_exceptions R335 to R337, R340). -/
def Obligations.CausesLatchAndStop : Prop :=
  ∀ s : State,
    (∀ (x : Byte) (y : BitVec 3), raiseScsi x y s = lined { s with
      sist0 := s.sist0 ||| x
      sist1 := s.sist1 ||| y
      sstop := s.sstop || decide (s.sist0 ||| x ≠ 0#8 ∨ (s.sist1 ||| y) &&& 0x3#3 ≠ 0#3) }) ∧
    (∀ d : Byte, raiseDma d s = lined { s with dstat := s.dstat ||| (d &&& 0x7D#8).setWidth 7, sstop := true }) ∧
    updateIrq s = lined s

/-- O33. Where causes come from: an instruction raises IID only as an illegal Transfer Control, SIR only as an
INT, MA only as a Block Move, STO only as a Select or a Block Move; none raises UDC or SSI (60_exceptions R331,
30_encoding R140). -/
def Obligations.CausesHaveTheirSources : Prop :=
  ∀ (i : Instr) (s t : State), exec i s = .next t →
    (s.dstat.getLsbD 0 = false → t.dstat.getLsbD 0 = true → ∃ opc, i = .tcIllegal opc) ∧
    (s.dstat.getLsbD 2 = false → t.dstat.getLsbD 2 = true → ∃ c v, i = .int c v) ∧
    (s.sist0.getLsbD 7 = false → t.sist0.getLsbD 7 = true → isBlockMove i = true) ∧
    (s.sist1.getLsbD 2 = false → t.sist1.getLsbD 2 = true →
      isBlockMove i = true ∨ ∃ atn src alt, i = .select atn src alt) ∧
    (s.sist0.getLsbD 2 = false → t.sist0.getLsbD 2 = false) ∧
    (s.dstat.getLsbD 3 = false → t.dstat.getLsbD 3 = false)

/-! ### The register ALU (43_regalu) -/

/-- O34. The from-SFBR instructions complete: each writes its result to `reg` through the bank, the four
arithmetic ones also `carry` (43_regalu R201, R230 to R237). -/
def Obligations.FromSfbrInstructions : Prop :=
  ∀ (reg imm : Byte) (s : State),
    exec (.movFs reg imm) s = .next (regWrite reg imm s) ∧
    exec (.shlFs reg imm) s =
      .next (regWrite reg (s.sfbr <<< 1 ||| bit s.carry) { s with carry := s.sfbr.getLsbD 7 }) ∧
    exec (.orFs reg imm) s = .next (regWrite reg (s.sfbr ||| imm) s) ∧
    exec (.xorFs reg imm) s = .next (regWrite reg (s.sfbr ^^^ imm) s) ∧
    exec (.andFs reg imm) s = .next (regWrite reg (s.sfbr &&& imm) s) ∧
    exec (.shrFs reg imm) s =
      .next (regWrite reg (s.sfbr >>> 1 ||| bit s.carry <<< 7) { s with carry := s.sfbr.getLsbD 0 }) ∧
    exec (.addFs reg imm) s =
      .next (regWrite reg (s.sfbr + imm) { s with carry := decide (255 < s.sfbr.toNat + imm.toNat) }) ∧
    exec (.adcFs reg imm) s =
      .next (regWrite reg (s.sfbr + imm + bit s.carry)
        { s with carry := decide (255 < s.sfbr.toNat + imm.toNat + (bit s.carry).toNat) })

/-- O35. The to-SFBR instructions complete: each but MOV reads `reg` through the bank, and its result goes to
`sfbr`; `reg` is not written (43_regalu R202, R238 to R245). -/
def Obligations.ToSfbrInstructions : Prop :=
  ∀ (reg imm : Byte) (s : State),
    let a := (regRead reg s).1
    let u := (regRead reg s).2
    exec (.movTs reg imm) s = .next { s with sfbr := imm } ∧
    exec (.shlTs reg imm) s = .next { u with sfbr := a <<< 1 ||| bit s.carry, carry := a.getLsbD 7 } ∧
    exec (.orTs reg imm) s = .next { u with sfbr := a ||| imm } ∧
    exec (.xorTs reg imm) s = .next { u with sfbr := a ^^^ imm } ∧
    exec (.andTs reg imm) s = .next { u with sfbr := a &&& imm } ∧
    exec (.shrTs reg imm) s = .next { u with sfbr := a >>> 1 ||| bit s.carry <<< 7, carry := a.getLsbD 0 } ∧
    exec (.addTs reg imm) s =
      .next { u with sfbr := a + imm, carry := decide (255 < a.toNat + imm.toNat) } ∧
    exec (.adcTs reg imm) s =
      .next { u with
        sfbr := a + imm + bit s.carry
        carry := decide (255 < a.toNat + imm.toNat + (bit s.carry).toNat) }

/-- O36. The read-modify-write instructions complete, with the immediate or `sfbr` as the second operand: each
but MOV reads `reg` through the bank first, then writes its result there (43_regalu R203, R246 to R253). -/
def Obligations.ReadModifyWriteInstructions : Prop :=
  ∀ (reg : Byte) (src : RmSource) (s : State),
    let a := (regRead reg s).1
    let u := (regRead reg s).2
    let b := match src with | .imm v => v | .sfbr => s.sfbr
    exec (.movRm reg src) s = .next (regWrite reg b s) ∧
    exec (.shlRm reg src) s =
      .next (regWrite reg (a <<< 1 ||| bit s.carry) { u with carry := a.getLsbD 7 }) ∧
    exec (.orRm reg src) s = .next (regWrite reg (a ||| b) u) ∧
    exec (.xorRm reg src) s = .next (regWrite reg (a ^^^ b) u) ∧
    exec (.andRm reg src) s = .next (regWrite reg (a &&& b) u) ∧
    exec (.shrRm reg src) s =
      .next (regWrite reg (a >>> 1 ||| bit s.carry <<< 7) { u with carry := a.getLsbD 0 }) ∧
    exec (.addRm reg src) s =
      .next (regWrite reg (a + b) { u with carry := decide (255 < a.toNat + b.toNat) }) ∧
    exec (.adcRm reg src) s =
      .next (regWrite reg (a + b + bit s.carry)
        { u with carry := decide (255 < a.toNat + b.toNat + (bit s.carry).toNat) })

/-- O37. The frame of the register ALU on a scratch register: of the 24 instructions, FS and RM change one byte
lane of that register and `carry`, TS changes `sfbr` and `carry`, and nothing else changes (43_regalu R200 to
R203, 10_state R20). -/
def Obligations.AluOnScratchFrame : Prop :=
  ∀ (op : AluOp) (j : Fin 10) (k : Fin 4) (imm : Byte) (src : RmSource) (s : State),
    (∃ (c : Bool) (v : Word), exec (Instr.ofFs op (scratchOffset j k) imm) s =
        .next { s with carry := c, scratch := s.scratch.set j v } ∧
      ∀ k' : Fin 4, k' ≠ k → lane v k' = lane s.scratch[j] k') ∧
    (∃ (c : Bool) (r : Byte), exec (Instr.ofTs op (scratchOffset j k) imm) s =
        .next { s with carry := c, sfbr := r }) ∧
    (∃ (c : Bool) (v : Word), exec (Instr.ofRm op (scratchOffset j k) src) s =
        .next { s with carry := c, scratch := s.scratch.set j v } ∧
      ∀ k' : Fin 4, k' ≠ k → lane v k' = lane s.scratch[j] k')

/-- O38. The carry flag persists: an instruction that is not a shift, an addition, or a Set or Clear of the
carry, and that does not write ISTAT (through which it might reset the core), leaves it (10_state R19,
43_regalu R218, 70_reset R382). -/
def Obligations.CarryPersists : Prop :=
  ∀ (i : Instr) (s t : State), exec i s = .next t → writesCarry i = false → writesIstat i = false →
    t.carry = s.carry

/-! ### I/O instructions (42_io) -/

/-- O39. SELECT: already connected, the script goes to the alternate address; with the target present the bus
is connected and the phase Message-Out; with it absent STO is latched and the bus left (42_io R190, R191). -/
def Obligations.SelectCompletes : Prop :=
  ∀ (atn : Bool) (src : IdSource) (alt : Target) (s : State),
    let id := selectedId src s
    let s1 := { s with dnad := address alt s, sdid := id, selAtn := atn }
    let s2 := { s1 with
      sstat0 := s.sstat0 ||| 0x04#8, scntl1 := s.scntl1 &&& 0xFD#8, io := (askPresent id s).2.io }
    exec (.select atn src alt) s = .next
      (if s.scntl1.getLsbD 4 = true then { s1 with dsp := address alt s }
      else if (askPresent id s).1 = true then
        { s2 with
          scntl1 := (s.scntl1 &&& 0xFD#8) ||| 0x10#8
          socl := if atn then s.socl ||| 0x08#8 else s.socl
          phase := .msgOut
          waiting := .running }
      else offBus (timeoutCause s2))

/-- O40. WAIT DISCONNECT leaves the bus and waits for nothing; WAIT RESELECT only waits; both set `dnad`
(42_io R190, R192, R193, 46_phase_engine R300). -/
def Obligations.WaitInstructionsComplete : Prop :=
  ∀ (tbl : Option Word24) (alt : Target) (s : State),
    exec (.waitDisconnect tbl alt) s =
      .next { offBus { s with dnad := address alt s } with waiting := .running } ∧
    exec (.waitReselect tbl alt) s = .next { s with dnad := address alt s, waiting := .reselect }

/-- O41. SET and CLEAR write ATN and ACK of `socl` and `carry` as their flag bits say; SET ATN also takes the
phase to Message-Out; the target-mode bit has no effect (42_io R190, R194, R195). -/
def Obligations.SetAndClearComplete : Prop :=
  ∀ (f : IoFlags) (tbl : Option Word24) (alt : Target) (s : State),
    exec (.set f tbl alt) s = .next { s with
      dnad := address alt s
      socl := s.socl ||| (if f.atn then 0x08#8 else 0#8) ||| (if f.ack then 0x40#8 else 0#8)
      phase := if f.atn then .msgOut else s.phase
      carry := s.carry || f.carry } ∧
    exec (.clear f tbl alt) s = .next { s with
      dnad := address alt s
      socl := s.socl &&& (if f.atn then 0xF7#8 else 0xFF#8) &&& (if f.ack then 0xBF#8 else 0xFF#8)
      carry := s.carry && !f.carry }

/-! ### Transfer Control (44_transfer_control) -/

/-- O42. A taken JUMP, CALL and RETURN: `dsp` is the target; CALL saves the old `dsp` in `temp`; RETURN takes
`dsp` from `temp`; nothing else changes (44_transfer_control R261, R264 to R266, R269). -/
def Obligations.TakenTransfers : Prop :=
  ∀ (c : Cond) (t : Target) (s : State), c.isNop = false → ¬StoPending s → TestsAgree c s →
    exec (.jump c t) s = .next { s with dsp := address t s } ∧
    exec (.call c t) s = .next { s with temp := s.dsp, dsp := address t s } ∧
    exec (.ret c) s = .next { s with dsp := s.temp }

/-- O43. A taken INT raises the cause SIR, which stops the interpreter; a taken INTFLY sets INTF, which asserts
the line whatever the enables, and the script goes on (44_transfer_control R261, R267). -/
def Obligations.TakenInterrupts : Prop :=
  ∀ (c : Cond) (v : Word) (s : State), c.isNop = false → ¬StoPending s → TestsAgree c s →
    exec (.int c v) s = .next (dmaCause 0x04#7 s) ∧
    exec (.intfly c v) s = .next { s with intf := true, irq := true }

/-- O44. A gated instruction whose tests do not all agree with JT falls through: nothing changes
(44_transfer_control R260, R261). -/
def Obligations.UntakenFallsThrough : Prop :=
  ∀ (c : Cond) (i : Instr) (s : State), c.isNop = false → Gated c i → ¬StoPending s → ¬TestsAgree c s →
    exec i s = .next s

/-- O45. The delayed stop: with STO latched, a gated Transfer Control and a Block Move of any form only stop
the interpreter (44_transfer_control R263, 41_block_move R180). -/
def Obligations.DelayedTimeoutStop : Prop :=
  ∀ (i : Instr) (s : State), StoPending s → (∃ c, c.isNop = false ∧ Gated c i) ∨ isBlockMove i = true →
    exec i s = .next { s with sstop := true }

/-- O46. PAD advances `dsp` by 4, NOP does nothing beyond its fetch, and an illegal Transfer Control raises IID
before any test, even with STO latched (40_dispatch R162, 44_transfer_control R262, R268). -/
def Obligations.PadNopAndIllegal : Prop :=
  ∀ (opc : BitVec 2) (s : State),
    exec .pad s = .next { s with dsp := s.dsp + 4#32 } ∧
    exec .nop s = .next s ∧
    exec (.tcIllegal opc) s = .next (dmaCause 0x01#7 s)

/-- O47. "Call followed immediately by Return restores `dsp` to the instruction following the original Call"
(44_transfer_control R266), the fetch of the RETURN between them. -/
def Obligations.CallThenReturn : Prop :=
  ∀ (c c' : Cond) (t : Target) (s : State), c.isNop = false → c'.isNop = false → ¬StoPending s →
    TestsAgree c s → TestsAgree c' s →
    ∃ u v, exec (.call c t) s = .next u ∧ exec (.ret c') (afterFetch (.ret c') u) = .next v ∧ v.dsp = s.dsp

/-! ### Memory (20_memory, 45_memory_move) -/

/-- O48. The DMA unit: with SIOM a read is `n` port reads at ascending ports modulo 2^16, else a memory read;
with DIOM a write is a port write for each byte, else a memory write; nothing but the outside world or memory
changes (20_memory R106, R107, R109). -/
def Obligations.DmaUnitObeysModeBits : Prop :=
  ∀ (addr : Word) (n : Nat) (bs : List Byte) (s : State),
    (s.dmode.getLsbD 5 = false → dmaRead addr n s = (s.mem.bytes addr n, s)) ∧
    (s.dmode.getLsbD 5 = true → (dmaRead addr n s).1.length = n ∧
      (dmaRead addr n s).2 = { s with io := (dmaRead addr n s).2.io } ∧
      (dmaRead addr n s).2.io.trace =
        ((List.range n).map fun i => ExtCall.portRead ((addr + BitVec.ofNat 32 i).setWidth 16)
          ((dmaRead addr n s).1.getD i 0#8)).reverse ++ s.io.trace) ∧
    (s.dmode.getLsbD 4 = false → dmaWrite addr bs s = { s with mem := s.mem.store addr bs }) ∧
    (s.dmode.getLsbD 4 = true → dmaWrite addr bs s = { s with io := { s.io with
      trace := ((List.range bs.length).map fun i => ExtCall.portWrite ((addr + BitVec.ofNat 32 i).setWidth 16)
          (bs.getD i 0#8)).reverse ++ s.io.trace } })

/-- O49. MOVE MEMORY consumes its third word, reads the whole source and then writes the destination by the DMA
unit; memory to memory, every destination byte is the old source byte and every other byte is unchanged
(45_memory_move R281). -/
def Obligations.MoveMemoryCopies : Prop :=
  ∀ (n : Word24) (src dst : Word) (s : State),
    exec (.moveMemory n src dst) s =
      .next (dmaWrite dst (dmaRead src n.toNat { s with dsp := s.dsp + 4#32 }).1
        (dmaRead src n.toNat { s with dsp := s.dsp + 4#32 }).2) ∧
    (MemoryCanonical s → s.dmode.getLsbD 5 = false → s.dmode.getLsbD 4 = false →
      ∃ t, exec (.moveMemory n src dst) s = .next t ∧ t = { s with dsp := s.dsp + 4#32, mem := t.mem } ∧
        (∀ i < n.toNat, t.mem.byte (dst + BitVec.ofNat 32 i) = s.mem.byte (src + BitVec.ofNat 32 i)) ∧
        (∀ p, (∀ i < n.toNat, p ≠ dst + BitVec.ofNat 32 i) → t.mem.byte p = s.mem.byte p))

/-- O50. LOAD reads its bytes first and then writes them through the bank at ascending offsets modulo 256, with
every side effect (45_memory_move R282). -/
def Obligations.LoadWritesRegisters : Prop :=
  ∀ (reg : Byte) (n : BitVec 3) (a : LsAddr) (s : State),
    exec (.load reg n a) s = .next ((List.range n.toNat).foldl (fun u i =>
      regWrite (reg + BitVec.ofNat 8 i) (s.mem.byte (dataAddress a s + BitVec.ofNat 32 i)) u) s)

/-- O51. STORE reads the registers through the bank at ascending offsets modulo 256, with every side effect, and
writes those bytes at its address; every other byte of memory and everything else is as the reads left it
(45_memory_move R283). -/
def Obligations.StoreWritesMemory : Prop :=
  ∀ (reg : Byte) (n : BitVec 3) (a : LsAddr) (s : State), MemoryCanonical s →
    let after := fun k : Nat =>
      (List.range k).foldl (fun u i => (regRead (reg + BitVec.ofNat 8 i) u).2) s
    ∃ t, exec (.store reg n a) s = .next t ∧ t = { after n.toNat with mem := t.mem } ∧
      (∀ i < n.toNat, t.mem.byte (dataAddress a s + BitVec.ofNat 32 i) =
        (regRead (reg + BitVec.ofNat 8 i) (after i)).1) ∧
      (∀ p, (∀ i < n.toNat, p ≠ dataAddress a s + BitVec.ofNat 32 i) → t.mem.byte p = s.mem.byte p)

/-- O52. A STORE of scratch registers followed by a LOAD of the same leaves every register unchanged
(45_memory_move R284, which the spec marks as derived). -/
def Obligations.StoreThenLoadScratch : Prop :=
  ∀ (reg : Byte) (n : BitVec 3) (a : LsAddr) (s : State), MemoryCanonical s →
    (∀ i < n.toNat, ∃ (j : Fin 10) (k : Fin 4), reg + BitVec.ofNat 8 i = scratchOffset j k) →
    ∃ t, exec (.store reg n a) s = .next t ∧ exec (.load reg n a) t = .next { s with mem := t.mem }

/-- O53. The memory frame: an instruction other than a Block Move, a Memory Move or a Store leaves guest memory
as it was (20_memory R108). -/
def Obligations.OtherInstructionsKeepMemory : Prop :=
  ∀ (i : Instr) (s t : State), exec i s = .next t → mayStore i = false → t.mem = s.mem

/-! ### Block Moves and the phase engine (41_block_move, 46_phase_engine) -/

/-- O54. A Block Move of any form whose phase differs from the current one raises MA and stops; the count is
loaded, nothing is transferred (41_block_move R180 to R184). -/
def Obligations.PhaseMismatchStops : Prop :=
  ∀ (i : Instr) (s : State) (ph : BitVec 3) (count : Word24) (addr : Word), BlockMove s i ph count addr →
    ¬StoPending s → s.phase.code ≠ ph →
    exec i s = .next (scsiCause 0x80#8 { s with dbc := count, rbc := count })

/-- O55. A Block Move in a data phase, of any form: with no request only the bookkeeping happens; with one, the
lesser of the count and what the device still holds moves by the DMA unit; the device exhausted, it is told,
its status taken, the phase goes to Status, and a residual count raises MA (46_phase_engine R296, R297,
41_block_move R185). That the two calls at completion take the request's id and not `sdid` is the model's choice
between two rules (DESIGN CHOICE, log 25). -/
def Obligations.DataPhaseMoves : Prop :=
  ∀ (i : Instr) (s : State) (ph : BitVec 3) (count : Word24) (addr : Word) (d : Direction),
    BlockMove s i ph count addr → ¬StoPending s → s.phase.code = ph →
    s.phase = (match d with | .output => .dataOut | .input => .dataIn) →
    (s.request = none →
      exec i s = .next (booked count { s with dbc := count, dnad := addr })) ∧
    (∀ r, s.request = some r → r.dir = d → r.pos ≤ r.buf.length →
      let n := min count.toNat (r.buf.length - r.pos)
      let s1 := { s with
        dbc := count - BitVec.ofNat 24 n, dnad := addr + BitVec.ofNat 32 n, waiting := .running }
      let data := (dmaRead addr n s).1
      let buf := match d with
        | .output => r.buf.take r.pos ++ data ++ r.buf.drop (r.pos + n)
        | .input => r.buf
      let moved := match d with
        | .output => { s1 with io := (dmaRead addr n s).2.io }
        | .input => dmaWrite addr ((r.buf.drop r.pos).take n) s1
      let told := tellData r.id (match d with | .output => buf | .input => []) moved
      let done := { (askStatus r.id told).2 with
        status := (askStatus r.id told).1, request := none, phase := .status }
      exec i s = .next (booked count
        (if r.pos + n < r.buf.length then { moved with request := some { r with pos := r.pos + n, buf := buf } }
        else if count.toNat = n then done
        else scsiCause 0x80#8 done)))

/-- O56. A Block Move in Command phase, of any form: up to 12 CDB bytes are read, `dbc` cleared; an absent target
times out and leaves the bus; else the device's answer starts a data phase with a request, or Status, and the
activation will yield (46_phase_engine R294, 41_block_move R185). -/
def Obligations.CommandPhaseCompletes : Prop :=
  ∀ (i : Instr) (s : State) (ph : BitVec 3) (count : Word24) (addr : Word),
    BlockMove s i ph count addr → ¬StoPending s → s.phase.code = ph → s.phase = .command →
    let n := min count.toNat 12
    let cdb := s.mem.bytes addr n ++ List.replicate (12 - n) 0#8
    let s1 := { s with
      dbc := 0#24
      dnad := addr + BitVec.ofNat 32 n
      sfbr := if n = 0 then s.sfbr else s.mem.byte addr
      io := (askPresent s.sdid s).2.io }
    let s2 := { s1 with io := (askCommand s.sdid cdb s1).2.io, yield := true }
    exec i s = .next (booked count
      (if (askPresent s.sdid s).1 = true then
        match (askCommand s.sdid cdb s1).1 with
        | .dataIn (b :: bs) => { s2 with
            phase := .dataIn, request := some { id := s.sdid, buf := b :: bs, pos := 0, dir := .input } }
        | .dataOut (k + 1) => { s2 with
            phase := .dataOut
            request := some { id := s.sdid, buf := List.replicate (k + 1) 0#8, pos := 0, dir := .output } }
        | _ => { s2 with
            phase := .status
            request := none
            status := (askStatus s.sdid s2).1
            io := (askStatus s.sdid s2).2.io }
      else offBus (timeoutCause s1)))

/-- O57. A Block Move in Status phase, of any form: one byte, the status, goes to the address and to `sfbr`
whatever the count; Command Complete is queued and the phase is Message-In (46_phase_engine R298,
41_block_move R185). -/
def Obligations.StatusPhaseCompletes : Prop :=
  ∀ (i : Instr) (s : State) (ph : BitVec 3) (count : Word24) (addr : Word),
    BlockMove s i ph count addr → ¬StoPending s → s.phase.code = ph → s.phase = .status →
    exec i s = .next (booked count { dmaWrite addr [s.status] s with
      sfbr := s.status
      dbc := 0#24
      dnad := addr + 1#32
      phase := .msgIn
      msgAction := .disconnect
      msg := if s.msg.length < 8 then s.msg ++ [0x00#8] else s.msg })

/-- O58. A Block Move in Message-In, of any form: the lesser of the count and the buffered bytes goes to the
address, the first byte to `sfbr`, the last to `sidl`; once drained, the pending action is taken
(46_phase_engine R299, 41_block_move R185). -/
def Obligations.MessageInCompletes : Prop :=
  ∀ (i : Instr) (s : State) (ph : BitVec 3) (count : Word24) (addr : Word),
    BlockMove s i ph count addr → ¬StoPending s → s.phase.code = ph → s.phase = .msgIn →
    let n := min s.msg.length count.toNat
    let s1 := { s with dbc := count, dnad := addr }
    let sent := if n = 0 then s1 else { dmaWrite addr (s.msg.take n) s1 with
      sfbr := s.msg.headD 0#8
      sidl := s.msg.getD (n - 1) 0#8
      dbc := BitVec.ofNat 24 (count.toNat - n)
      dnad := addr + BitVec.ofNat 32 n
      msg := s.msg.drop n }
    exec i s = .next (booked count
      (if n < s.msg.length then sent
      else match s.msgAction with
        | .command => { sent with phase := .command }
        | .disconnect => offBus sent
        | .dataOut => { sent with phase := .dataOut }
        | .dataIn => { sent with phase := .dataIn }))

/-- O59. A Block Move in Message-Out, of any form, runs the message loop, and that loop is its rule: while bytes
remain, one message as its code says, and a reject ends it (46_phase_engine R301 to R303, 41_block_move R185). -/
def Obligations.MessageOutCompletes : Prop :=
  (∀ (i : Instr) (s : State) (ph : BitVec 3) (count : Word24) (addr : Word),
    BlockMove s i ph count addr → ¬StoPending s → s.phase.code = ph → s.phase = .msgOut →
    exec i s = .next (booked count (messageOut { s with dbc := count, rbc := count, dnad := addr }))) ∧
  (∀ s : State, messageOut s =
    if s.dbc = 0#24 then s
    else if (messageRound s).2 = true then messageOut (messageRound s).1
    else (messageRound s).1)

/-! ### The fields of the register ALU (30_encoding) -/

/-- O60. In class 1 with OPC 5, 6 or 7 the operator, the register offset `(w0[7] << 7) | w0[22:16]`, the
immediate and USFBR are read from the bit positions of 30_encoding R134; the second word has no part in it. -/
def Obligations.RegisterAluFieldsAreRead : Prop :=
  ∀ w0 w1 w2 : Word, w0 >>> 30 = 1#32 →
    let op := AluOp.ofCode (w0.extractLsb' 24 3)
    let reg : Byte := (w0.extractLsb' 7 1).setWidth 8 <<< 7 ||| (w0.extractLsb' 16 7).setWidth 8
    let imm : Byte := w0.extractLsb' 8 8
    (w0.extractLsb' 27 3 = 5#3 → decodeWords w0 w1 w2 = Instr.ofFs op reg imm) ∧
    (w0.extractLsb' 27 3 = 6#3 → decodeWords w0 w1 w2 = Instr.ofTs op reg imm) ∧
    (w0.extractLsb' 27 3 = 7#3 →
      decodeWords w0 w1 w2 = Instr.ofRm op reg (if w0.getLsbD 23 then .sfbr else .imm imm))
end

