-- ==== Sys2Proof/Laws/Memory.lean ====
section
/-! SUPPORT. The laws of guest memory: a read after a write, the canonical form, and that equal reads mean
equal memories. -/

namespace Sys2Proof.Machine

/-! ### Reading after a write of one byte -/

@[simp] theorem Memory.get_nil (a : Nat) : Memory.get [] a = Memory.unlisted := rfl

theorem Memory.get_cons (k : Nat) (x : Byte) (m : Memory) (a : Nat) :
    Memory.get ((k, x) :: m) a = if k = a then x else m.get a := rfl

/-- The addresses of a canonical memory lie above its first. -/
theorem Memory.wf_cons {k : Nat} {x : Byte} {m : Memory} :
    Memory.wf ((k, x) :: m) = true ↔
      k < 2 ^ 32 ∧ x ≠ Memory.unlisted ∧ Memory.wf m = true ∧ ∀ c ∈ m, k < c.1 := by
  induction m generalizing k x with
  | nil => simp [Memory.wf]
  | cons c rest ih =>
    obtain ⟨a, b⟩ := c
    simp only [Memory.wf, Bool.and_eq_true, decide_eq_true_eq, bne_iff_ne, ne_eq, ih,
      List.mem_cons, forall_eq_or_imp]
    constructor
    · rintro ⟨⟨h1, h2⟩, h3, h4, h5, h6⟩
      exact ⟨by omega, h2, ⟨h3, h4, h5, h6⟩, h1, fun c hc => lt_trans h1 (h6 c hc)⟩
    · rintro ⟨_, h2, h3, h1, _⟩
      exact ⟨⟨h1, h2⟩, h3⟩

/-- An address below every listed one reads as unlisted. -/
theorem Memory.get_of_lt {m : Memory} {a : Nat} (h : ∀ c ∈ m, a < c.1) :
    m.get a = Memory.unlisted := by
  induction m with
  | nil => rfl
  | cons c rest ih =>
    have := h c (by simp)
    rw [Memory.get_cons, if_neg (by omega), ih fun d hd => h d (by simp [hd])]

/-- A written byte leaves every other address alone. -/
theorem Memory.get_put_ne (m : Memory) {a a' : Nat} (b : Byte) (h : a' ≠ a) :
    (m.put a b).get a' = m.get a' := by
  induction m with
  | nil => by_cases hb : b = Memory.unlisted <;> simp [Memory.put, hb, Memory.get_cons, h.symm]
  | cons c rest ih =>
    obtain ⟨k, x⟩ := c
    have h' : a ≠ a' := h.symm
    unfold Memory.put
    split_ifs with h1 h2 h3 h4
    · rfl
    · simp [Memory.get_cons, h']
    · subst h3; simp [Memory.get_cons, h']
    · subst h3; simp [Memory.get_cons, h']
    · simp only [Memory.get_cons, ih]

/-- A written byte is read back, in a canonical memory. -/
theorem Memory.get_put_same {m : Memory} (hm : m.wf = true) (a : Nat) (b : Byte) :
    (m.put a b).get a = b := by
  induction m with
  | nil => by_cases hb : b = Memory.unlisted <;> simp [Memory.put, hb, Memory.get_cons]
  | cons c rest ih =>
    obtain ⟨k, x⟩ := c
    obtain ⟨_, _, hr, hlt⟩ := Memory.wf_cons.1 hm
    unfold Memory.put
    split_ifs with h1 h2 h3 h4
    · subst h2
      rw [Memory.get_cons, if_neg (by omega)]
      exact Memory.get_of_lt fun c hc => lt_trans h1 (hlt c hc)
    · simp [Memory.get_cons]
    · subst h3 h4
      exact Memory.get_of_lt hlt
    · simp [Memory.get_cons]
    · rw [Memory.get_cons, if_neg (by omega), ih hr]

/-! ### The canonical form -/

/-- The cells of memory after a write: the written one, or old ones at other addresses. -/
theorem Memory.mem_put {m : Memory} {a : Nat} {b : Byte} {c : Host.Cell} (h : c ∈ m.put a b) :
    c = (a, b) ∨ c ∈ m := by
  induction m with
  | nil => unfold Memory.put at h; split_ifs at h <;> simp_all
  | cons d rest ih =>
    obtain ⟨k, x⟩ := d
    unfold Memory.put at h
    split_ifs at h <;> simp only [List.mem_cons] at h ⊢ <;> tauto

/-- A write of one byte keeps the canonical form. -/
theorem Memory.wf_put {m : Memory} (hm : m.wf = true) {a : Nat} (ha : a < 2 ^ 32) (b : Byte) :
    (m.put a b).wf = true := by
  induction m with
  | nil => by_cases hb : b = Memory.unlisted <;> simp_all [Memory.put, Memory.wf]
  | cons c rest ih =>
    obtain ⟨k, x⟩ := c
    obtain ⟨hk, hx, hr, hlt⟩ := Memory.wf_cons.1 hm
    unfold Memory.put
    split_ifs with h1 h2 h3 h4
    · exact hm
    · refine Memory.wf_cons.2 ⟨ha, h2, hm, fun d hd => ?_⟩
      rcases List.mem_cons.1 hd with rfl | hd
      · exact h1
      · exact lt_trans h1 (hlt d hd)
    · exact hr
    · exact Memory.wf_cons.2 ⟨ha, h4, hr, fun d hd => h3 ▸ hlt d hd⟩
    · refine Memory.wf_cons.2 ⟨hk, hx, ih hr, fun d hd => ?_⟩
      rcases Memory.mem_put hd with rfl | hd
      · exact lt_of_le_of_ne (Nat.le_of_not_lt h1) (fun h => h3 h.symm)
      · exact hlt d hd

/-- A write of a run of bytes keeps the canonical form. -/
theorem Memory.wf_store {m : Memory} (hm : m.wf = true) (addr : Word) (bs : List Byte) :
    (m.store addr bs).wf = true := by
  induction bs generalizing m addr with
  | nil => exact hm
  | cons b rest ih => exact ih (Memory.wf_put hm addr.isLt b) _

/-- Canonical memories that read the same everywhere are equal. -/
theorem Memory.ext_get {m m' : Memory} (hm : m.wf = true) (hm' : m'.wf = true)
    (h : ∀ a, m.get a = m'.get a) : m = m' := by
  induction m generalizing m' with
  | nil =>
    cases m' with
    | nil => rfl
    | cons c rest =>
      obtain ⟨k, x⟩ := c
      have hx := (Memory.wf_cons.1 hm').2.1
      exact absurd (by simpa [Memory.get_cons] using (h k).symm) hx
  | cons c rest ih =>
    obtain ⟨k, x⟩ := c
    obtain ⟨_, hx, hr, hlt⟩ := Memory.wf_cons.1 hm
    cases m' with
    | nil => exact absurd (by simpa [Memory.get_cons] using h k) hx
    | cons c' rest' =>
      obtain ⟨k', x'⟩ := c'
      obtain ⟨_, hx', hr', hlt'⟩ := Memory.wf_cons.1 hm'
      have hk : k = k' := by
        rcases Nat.lt_trichotomy k k' with hlt1 | he | hlt1
        · have := h k
          rw [Memory.get_of_lt (m := (k', x') :: rest') (by
            intro d hd
            rcases List.mem_cons.1 hd with rfl | hd
            · exact hlt1
            · exact lt_trans hlt1 (hlt' d hd))] at this
          exact absurd (by simpa [Memory.get_cons] using this) hx
        · exact he
        · have := h k'
          rw [Memory.get_of_lt (m := (k, x) :: rest) (by
            intro d hd
            rcases List.mem_cons.1 hd with rfl | hd
            · exact hlt1
            · exact lt_trans hlt1 (hlt d hd))] at this
          exact absurd (by simpa [Memory.get_cons] using this.symm) hx'
      subst hk
      have hxx : x = x' := by simpa [Memory.get_cons] using h k
      subst hxx
      congr 1
      refine ih hr hr' fun a => ?_
      by_cases ha : k = a
      · subst ha; rw [Memory.get_of_lt hlt, Memory.get_of_lt hlt']
      · simpa [Memory.get_cons, ha] using h a

/-! ### Runs of bytes -/

@[simp] theorem Memory.bytes_length (m : Memory) (addr : Word) (n : Nat) :
    (m.bytes addr n).length = n := by
  induction n generalizing addr with
  | zero => rfl
  | succ n ih => simp [Memory.bytes, ih]

/-- Byte `i` of a run is the byte at `addr + i`. -/
theorem Memory.bytes_get (m : Memory) (addr : Word) (n i : Nat) (h : i < n) :
    (m.bytes addr n)[i]? = some (m.byte (addr + BitVec.ofNat 32 i)) := by
  induction n generalizing addr i with
  | zero => omega
  | succ n ih =>
    cases i with
    | zero => simp [Memory.bytes]
    | succ i =>
      rw [Memory.bytes, List.getElem?_cons_succ, ih _ _ (by omega)]
      congr 2
      rw [BitVec.add_assoc]
      congr 1
      apply BitVec.eq_of_toNat_eq
      simp [Nat.add_comm]

/-- A stored run leaves every other address alone. -/
theorem Memory.byte_store_of_not_mem (m : Memory) (addr : Word) (bs : List Byte) (p : Word)
    (h : ∀ i < bs.length, p ≠ addr + BitVec.ofNat 32 i) : (m.store addr bs).byte p = m.byte p := by
  induction bs generalizing m addr with
  | nil => rfl
  | cons b rest ih =>
    have h0 : p ≠ addr := by simpa using h 0 (by simp)
    rw [Memory.store, ih]
    · exact Memory.get_put_ne m b fun he => h0 (BitVec.eq_of_toNat_eq he)
    · intro i hi he
      refine h (i + 1) (by simpa using hi) (he.trans ?_)
      rw [BitVec.add_assoc]
      congr 1
      apply BitVec.eq_of_toNat_eq
      simp [Nat.add_comm]

/-- A stored run of fewer than 2^32 bytes is read back. -/
theorem Memory.byte_store (m : Memory) (hm : m.wf = true) (addr : Word) (bs : List Byte)
    (hn : bs.length ≤ 2 ^ 32) (i : Nat) (hi : i < bs.length) :
    (m.store addr bs).byte (addr + BitVec.ofNat 32 i) = bs[i] := by
  induction bs generalizing m addr i with
  | nil => simp at hi
  | cons b rest ih =>
    have hlen : rest.length < 2 ^ 32 := by simp at hn; omega
    rw [Memory.store]
    cases i with
    | zero =>
      rw [Memory.byte_store_of_not_mem]
      · simpa [Memory.byte] using Memory.get_put_same hm addr.toNat b
      · intro i hi he
        have h2 : addr + 0#32 = addr + (1#32 + BitVec.ofNat 32 i) := by
          simpa [BitVec.add_assoc] using he
        have h1 := congrArg BitVec.toNat ((BitVec.add_right_inj addr).1 h2)
        simp only [BitVec.toNat_add, BitVec.toNat_ofNat] at h1
        omega
    | succ i =>
      have hi' : i < rest.length := by simpa using hi
      have := ih (m.put addr.toNat b) (Memory.wf_put hm addr.isLt b) (addr + 1#32) (by omega) i hi'
      rw [List.getElem_cons_succ, ← this]
      congr 1
      rw [BitVec.add_assoc]
      congr 1
      apply BitVec.eq_of_toNat_eq
      simp [Nat.add_comm]

end Sys2Proof.Machine
end

