-- ==== Sys2Proof/Laws/State.lean ====
section
/-! SUPPORT. What each named update of the state leaves in each field: one lemma per field per update, true by
definition. With them no later proof unfolds a record update. -/

namespace Sys2Proof.Machine

variable (s : State)

/-! ### `updateIrq` -/

@[simp] theorem updateIrq_dsp : (updateIrq s).dsp = s.dsp := rfl
@[simp] theorem updateIrq_temp : (updateIrq s).temp = s.temp := rfl
@[simp] theorem updateIrq_dbc : (updateIrq s).dbc = s.dbc := rfl
@[simp] theorem updateIrq_dnad : (updateIrq s).dnad = s.dnad := rfl
@[simp] theorem updateIrq_dsa : (updateIrq s).dsa = s.dsa := rfl
@[simp] theorem updateIrq_dsps : (updateIrq s).dsps = s.dsps := rfl
@[simp] theorem updateIrq_dcmd : (updateIrq s).dcmd = s.dcmd := rfl
@[simp] theorem updateIrq_carry : (updateIrq s).carry = s.carry := rfl
@[simp] theorem updateIrq_scratch : (updateIrq s).scratch = s.scratch := rfl
@[simp] theorem updateIrq_sfbr : (updateIrq s).sfbr = s.sfbr := rfl
@[simp] theorem updateIrq_storage : (updateIrq s).storage = s.storage := rfl
@[simp] theorem updateIrq_scntl1 : (updateIrq s).scntl1 = s.scntl1 := rfl
@[simp] theorem updateIrq_sdid : (updateIrq s).sdid = s.sdid := rfl
@[simp] theorem updateIrq_socl : (updateIrq s).socl = s.socl := rfl
@[simp] theorem updateIrq_phase : (updateIrq s).phase = s.phase := rfl
@[simp] theorem updateIrq_sstat0 : (updateIrq s).sstat0 = s.sstat0 := rfl
@[simp] theorem updateIrq_sidl : (updateIrq s).sidl = s.sidl := rfl
@[simp] theorem updateIrq_sist0 : (updateIrq s).sist0 = s.sist0 := rfl
@[simp] theorem updateIrq_sist1 : (updateIrq s).sist1 = s.sist1 := rfl
@[simp] theorem updateIrq_sien0 : (updateIrq s).sien0 = s.sien0 := rfl
@[simp] theorem updateIrq_sien1 : (updateIrq s).sien1 = s.sien1 := rfl
@[simp] theorem updateIrq_dstat : (updateIrq s).dstat = s.dstat := rfl
@[simp] theorem updateIrq_dien : (updateIrq s).dien = s.dien := rfl
@[simp] theorem updateIrq_intf : (updateIrq s).intf = s.intf := rfl
@[simp] theorem updateIrq_istatHi : (updateIrq s).istatHi = s.istatHi := rfl
@[simp] theorem updateIrq_irq : (updateIrq s).irq = irqValue s := rfl
@[simp] theorem updateIrq_dmode : (updateIrq s).dmode = s.dmode := rfl
@[simp] theorem updateIrq_dcntl : (updateIrq s).dcntl = s.dcntl := rfl
@[simp] theorem updateIrq_dfifo : (updateIrq s).dfifo = s.dfifo := rfl
@[simp] theorem updateIrq_ctest5 : (updateIrq s).ctest5 = s.ctest5 := rfl
@[simp] theorem updateIrq_sstop : (updateIrq s).sstop = s.sstop := rfl
@[simp] theorem updateIrq_waiting : (updateIrq s).waiting = s.waiting := rfl
@[simp] theorem updateIrq_msg : (updateIrq s).msg = s.msg := rfl
@[simp] theorem updateIrq_msgAction : (updateIrq s).msgAction = s.msgAction := rfl
@[simp] theorem updateIrq_request : (updateIrq s).request = s.request := rfl
@[simp] theorem updateIrq_status : (updateIrq s).status = s.status := rfl
@[simp] theorem updateIrq_selAtn : (updateIrq s).selAtn = s.selAtn := rfl
@[simp] theorem updateIrq_currentLun : (updateIrq s).currentLun = s.currentLun := rfl
@[simp] theorem updateIrq_selectTag : (updateIrq s).selectTag = s.selectTag := rfl
@[simp] theorem updateIrq_tagValid : (updateIrq s).tagValid = s.tagValid := rfl
@[simp] theorem updateIrq_icount : (updateIrq s).icount = s.icount := rfl
@[simp] theorem updateIrq_rbc : (updateIrq s).rbc = s.rbc := rfl
@[simp] theorem updateIrq_yield : (updateIrq s).yield = s.yield := rfl
@[simp] theorem updateIrq_mem : (updateIrq s).mem = s.mem := rfl
@[simp] theorem updateIrq_params : (updateIrq s).params = s.params := rfl
@[simp] theorem updateIrq_inRun : (updateIrq s).inRun = s.inRun := rfl
@[simp] theorem updateIrq_inbox : (updateIrq s).inbox = s.inbox := rfl
@[simp] theorem updateIrq_io : (updateIrq s).io = s.io := rfl

/-! ### `raiseScsi` -/

@[simp] theorem raiseScsi_dsp (x : Byte) (y : BitVec 3) : (raiseScsi x y s).dsp = s.dsp := rfl
@[simp] theorem raiseScsi_temp (x : Byte) (y : BitVec 3) : (raiseScsi x y s).temp = s.temp := rfl
@[simp] theorem raiseScsi_dbc (x : Byte) (y : BitVec 3) : (raiseScsi x y s).dbc = s.dbc := rfl
@[simp] theorem raiseScsi_dnad (x : Byte) (y : BitVec 3) : (raiseScsi x y s).dnad = s.dnad := rfl
@[simp] theorem raiseScsi_dsa (x : Byte) (y : BitVec 3) : (raiseScsi x y s).dsa = s.dsa := rfl
@[simp] theorem raiseScsi_dsps (x : Byte) (y : BitVec 3) : (raiseScsi x y s).dsps = s.dsps := rfl
@[simp] theorem raiseScsi_dcmd (x : Byte) (y : BitVec 3) : (raiseScsi x y s).dcmd = s.dcmd := rfl
@[simp] theorem raiseScsi_carry (x : Byte) (y : BitVec 3) : (raiseScsi x y s).carry = s.carry := rfl
@[simp] theorem raiseScsi_scratch (x : Byte) (y : BitVec 3) : (raiseScsi x y s).scratch = s.scratch := rfl
@[simp] theorem raiseScsi_sfbr (x : Byte) (y : BitVec 3) : (raiseScsi x y s).sfbr = s.sfbr := rfl
@[simp] theorem raiseScsi_storage (x : Byte) (y : BitVec 3) : (raiseScsi x y s).storage = s.storage := rfl
@[simp] theorem raiseScsi_scntl1 (x : Byte) (y : BitVec 3) : (raiseScsi x y s).scntl1 = s.scntl1 := rfl
@[simp] theorem raiseScsi_sdid (x : Byte) (y : BitVec 3) : (raiseScsi x y s).sdid = s.sdid := rfl
@[simp] theorem raiseScsi_socl (x : Byte) (y : BitVec 3) : (raiseScsi x y s).socl = s.socl := rfl
@[simp] theorem raiseScsi_phase (x : Byte) (y : BitVec 3) : (raiseScsi x y s).phase = s.phase := rfl
@[simp] theorem raiseScsi_sstat0 (x : Byte) (y : BitVec 3) : (raiseScsi x y s).sstat0 = s.sstat0 := rfl
@[simp] theorem raiseScsi_sidl (x : Byte) (y : BitVec 3) : (raiseScsi x y s).sidl = s.sidl := rfl
@[simp] theorem raiseScsi_sist0 (x : Byte) (y : BitVec 3) : (raiseScsi x y s).sist0 = s.sist0 ||| x := rfl
@[simp] theorem raiseScsi_sist1 (x : Byte) (y : BitVec 3) : (raiseScsi x y s).sist1 = s.sist1 ||| y := rfl
@[simp] theorem raiseScsi_sien0 (x : Byte) (y : BitVec 3) : (raiseScsi x y s).sien0 = s.sien0 := rfl
@[simp] theorem raiseScsi_sien1 (x : Byte) (y : BitVec 3) : (raiseScsi x y s).sien1 = s.sien1 := rfl
@[simp] theorem raiseScsi_dstat (x : Byte) (y : BitVec 3) : (raiseScsi x y s).dstat = s.dstat := rfl
@[simp] theorem raiseScsi_dien (x : Byte) (y : BitVec 3) : (raiseScsi x y s).dien = s.dien := rfl
@[simp] theorem raiseScsi_intf (x : Byte) (y : BitVec 3) : (raiseScsi x y s).intf = s.intf := rfl
@[simp] theorem raiseScsi_istatHi (x : Byte) (y : BitVec 3) : (raiseScsi x y s).istatHi = s.istatHi := rfl
@[simp] theorem raiseScsi_irq (x : Byte) (y : BitVec 3) : (raiseScsi x y s).irq = irqValue (raiseScsi x y s) := rfl
@[simp] theorem raiseScsi_dmode (x : Byte) (y : BitVec 3) : (raiseScsi x y s).dmode = s.dmode := rfl
@[simp] theorem raiseScsi_dcntl (x : Byte) (y : BitVec 3) : (raiseScsi x y s).dcntl = s.dcntl := rfl
@[simp] theorem raiseScsi_dfifo (x : Byte) (y : BitVec 3) : (raiseScsi x y s).dfifo = s.dfifo := rfl
@[simp] theorem raiseScsi_ctest5 (x : Byte) (y : BitVec 3) : (raiseScsi x y s).ctest5 = s.ctest5 := rfl
@[simp] theorem raiseScsi_sstop (x : Byte) (y : BitVec 3) : (raiseScsi x y s).sstop = (s.sstop || s.sist0 ||| x != 0#8 || (s.sist1 ||| y) &&& 3#3 != 0#3) := rfl
@[simp] theorem raiseScsi_waiting (x : Byte) (y : BitVec 3) : (raiseScsi x y s).waiting = s.waiting := rfl
@[simp] theorem raiseScsi_msg (x : Byte) (y : BitVec 3) : (raiseScsi x y s).msg = s.msg := rfl
@[simp] theorem raiseScsi_msgAction (x : Byte) (y : BitVec 3) : (raiseScsi x y s).msgAction = s.msgAction := rfl
@[simp] theorem raiseScsi_request (x : Byte) (y : BitVec 3) : (raiseScsi x y s).request = s.request := rfl
@[simp] theorem raiseScsi_status (x : Byte) (y : BitVec 3) : (raiseScsi x y s).status = s.status := rfl
@[simp] theorem raiseScsi_selAtn (x : Byte) (y : BitVec 3) : (raiseScsi x y s).selAtn = s.selAtn := rfl
@[simp] theorem raiseScsi_currentLun (x : Byte) (y : BitVec 3) : (raiseScsi x y s).currentLun = s.currentLun := rfl
@[simp] theorem raiseScsi_selectTag (x : Byte) (y : BitVec 3) : (raiseScsi x y s).selectTag = s.selectTag := rfl
@[simp] theorem raiseScsi_tagValid (x : Byte) (y : BitVec 3) : (raiseScsi x y s).tagValid = s.tagValid := rfl
@[simp] theorem raiseScsi_icount (x : Byte) (y : BitVec 3) : (raiseScsi x y s).icount = s.icount := rfl
@[simp] theorem raiseScsi_rbc (x : Byte) (y : BitVec 3) : (raiseScsi x y s).rbc = s.rbc := rfl
@[simp] theorem raiseScsi_yield (x : Byte) (y : BitVec 3) : (raiseScsi x y s).yield = s.yield := rfl
@[simp] theorem raiseScsi_mem (x : Byte) (y : BitVec 3) : (raiseScsi x y s).mem = s.mem := rfl
@[simp] theorem raiseScsi_params (x : Byte) (y : BitVec 3) : (raiseScsi x y s).params = s.params := rfl
@[simp] theorem raiseScsi_inRun (x : Byte) (y : BitVec 3) : (raiseScsi x y s).inRun = s.inRun := rfl
@[simp] theorem raiseScsi_inbox (x : Byte) (y : BitVec 3) : (raiseScsi x y s).inbox = s.inbox := rfl
@[simp] theorem raiseScsi_io (x : Byte) (y : BitVec 3) : (raiseScsi x y s).io = s.io := rfl

/-! ### `raiseDma` -/

@[simp] theorem raiseDma_dsp (d : Byte) : (raiseDma d s).dsp = s.dsp := rfl
@[simp] theorem raiseDma_temp (d : Byte) : (raiseDma d s).temp = s.temp := rfl
@[simp] theorem raiseDma_dbc (d : Byte) : (raiseDma d s).dbc = s.dbc := rfl
@[simp] theorem raiseDma_dnad (d : Byte) : (raiseDma d s).dnad = s.dnad := rfl
@[simp] theorem raiseDma_dsa (d : Byte) : (raiseDma d s).dsa = s.dsa := rfl
@[simp] theorem raiseDma_dsps (d : Byte) : (raiseDma d s).dsps = s.dsps := rfl
@[simp] theorem raiseDma_dcmd (d : Byte) : (raiseDma d s).dcmd = s.dcmd := rfl
@[simp] theorem raiseDma_carry (d : Byte) : (raiseDma d s).carry = s.carry := rfl
@[simp] theorem raiseDma_scratch (d : Byte) : (raiseDma d s).scratch = s.scratch := rfl
@[simp] theorem raiseDma_sfbr (d : Byte) : (raiseDma d s).sfbr = s.sfbr := rfl
@[simp] theorem raiseDma_storage (d : Byte) : (raiseDma d s).storage = s.storage := rfl
@[simp] theorem raiseDma_scntl1 (d : Byte) : (raiseDma d s).scntl1 = s.scntl1 := rfl
@[simp] theorem raiseDma_sdid (d : Byte) : (raiseDma d s).sdid = s.sdid := rfl
@[simp] theorem raiseDma_socl (d : Byte) : (raiseDma d s).socl = s.socl := rfl
@[simp] theorem raiseDma_phase (d : Byte) : (raiseDma d s).phase = s.phase := rfl
@[simp] theorem raiseDma_sstat0 (d : Byte) : (raiseDma d s).sstat0 = s.sstat0 := rfl
@[simp] theorem raiseDma_sidl (d : Byte) : (raiseDma d s).sidl = s.sidl := rfl
@[simp] theorem raiseDma_sist0 (d : Byte) : (raiseDma d s).sist0 = s.sist0 := rfl
@[simp] theorem raiseDma_sist1 (d : Byte) : (raiseDma d s).sist1 = s.sist1 := rfl
@[simp] theorem raiseDma_sien0 (d : Byte) : (raiseDma d s).sien0 = s.sien0 := rfl
@[simp] theorem raiseDma_sien1 (d : Byte) : (raiseDma d s).sien1 = s.sien1 := rfl
@[simp] theorem raiseDma_dstat (d : Byte) : (raiseDma d s).dstat = s.dstat ||| (d &&& 0x7D#8).setWidth 7 := rfl
@[simp] theorem raiseDma_dien (d : Byte) : (raiseDma d s).dien = s.dien := rfl
@[simp] theorem raiseDma_intf (d : Byte) : (raiseDma d s).intf = s.intf := rfl
@[simp] theorem raiseDma_istatHi (d : Byte) : (raiseDma d s).istatHi = s.istatHi := rfl
@[simp] theorem raiseDma_irq (d : Byte) : (raiseDma d s).irq = irqValue (raiseDma d s) := rfl
@[simp] theorem raiseDma_dmode (d : Byte) : (raiseDma d s).dmode = s.dmode := rfl
@[simp] theorem raiseDma_dcntl (d : Byte) : (raiseDma d s).dcntl = s.dcntl := rfl
@[simp] theorem raiseDma_dfifo (d : Byte) : (raiseDma d s).dfifo = s.dfifo := rfl
@[simp] theorem raiseDma_ctest5 (d : Byte) : (raiseDma d s).ctest5 = s.ctest5 := rfl
@[simp] theorem raiseDma_sstop (d : Byte) : (raiseDma d s).sstop = true := rfl
@[simp] theorem raiseDma_waiting (d : Byte) : (raiseDma d s).waiting = s.waiting := rfl
@[simp] theorem raiseDma_msg (d : Byte) : (raiseDma d s).msg = s.msg := rfl
@[simp] theorem raiseDma_msgAction (d : Byte) : (raiseDma d s).msgAction = s.msgAction := rfl
@[simp] theorem raiseDma_request (d : Byte) : (raiseDma d s).request = s.request := rfl
@[simp] theorem raiseDma_status (d : Byte) : (raiseDma d s).status = s.status := rfl
@[simp] theorem raiseDma_selAtn (d : Byte) : (raiseDma d s).selAtn = s.selAtn := rfl
@[simp] theorem raiseDma_currentLun (d : Byte) : (raiseDma d s).currentLun = s.currentLun := rfl
@[simp] theorem raiseDma_selectTag (d : Byte) : (raiseDma d s).selectTag = s.selectTag := rfl
@[simp] theorem raiseDma_tagValid (d : Byte) : (raiseDma d s).tagValid = s.tagValid := rfl
@[simp] theorem raiseDma_icount (d : Byte) : (raiseDma d s).icount = s.icount := rfl
@[simp] theorem raiseDma_rbc (d : Byte) : (raiseDma d s).rbc = s.rbc := rfl
@[simp] theorem raiseDma_yield (d : Byte) : (raiseDma d s).yield = s.yield := rfl
@[simp] theorem raiseDma_mem (d : Byte) : (raiseDma d s).mem = s.mem := rfl
@[simp] theorem raiseDma_params (d : Byte) : (raiseDma d s).params = s.params := rfl
@[simp] theorem raiseDma_inRun (d : Byte) : (raiseDma d s).inRun = s.inRun := rfl
@[simp] theorem raiseDma_inbox (d : Byte) : (raiseDma d s).inbox = s.inbox := rfl
@[simp] theorem raiseDma_io (d : Byte) : (raiseDma d s).io = s.io := rfl

/-! ### `start` -/

@[simp] theorem start_dsp : (start s).dsp = s.dsp := rfl
@[simp] theorem start_temp : (start s).temp = s.temp := rfl
@[simp] theorem start_dbc : (start s).dbc = s.dbc := rfl
@[simp] theorem start_dnad : (start s).dnad = s.dnad := rfl
@[simp] theorem start_dsa : (start s).dsa = s.dsa := rfl
@[simp] theorem start_dsps : (start s).dsps = s.dsps := rfl
@[simp] theorem start_dcmd : (start s).dcmd = s.dcmd := rfl
@[simp] theorem start_carry : (start s).carry = s.carry := rfl
@[simp] theorem start_scratch : (start s).scratch = s.scratch := rfl
@[simp] theorem start_sfbr : (start s).sfbr = s.sfbr := rfl
@[simp] theorem start_storage : (start s).storage = s.storage := rfl
@[simp] theorem start_scntl1 : (start s).scntl1 = s.scntl1 := rfl
@[simp] theorem start_sdid : (start s).sdid = s.sdid := rfl
@[simp] theorem start_socl : (start s).socl = s.socl := rfl
@[simp] theorem start_phase : (start s).phase = s.phase := rfl
@[simp] theorem start_sstat0 : (start s).sstat0 = s.sstat0 := rfl
@[simp] theorem start_sidl : (start s).sidl = s.sidl := rfl
@[simp] theorem start_sist0 : (start s).sist0 = s.sist0 := rfl
@[simp] theorem start_sist1 : (start s).sist1 = s.sist1 := rfl
@[simp] theorem start_sien0 : (start s).sien0 = s.sien0 := rfl
@[simp] theorem start_sien1 : (start s).sien1 = s.sien1 := rfl
@[simp] theorem start_dstat : (start s).dstat = s.dstat := rfl
@[simp] theorem start_dien : (start s).dien = s.dien := rfl
@[simp] theorem start_intf : (start s).intf = s.intf := rfl
@[simp] theorem start_istatHi : (start s).istatHi = s.istatHi := rfl
@[simp] theorem start_irq : (start s).irq = s.irq := rfl
@[simp] theorem start_dmode : (start s).dmode = s.dmode := rfl
@[simp] theorem start_dcntl : (start s).dcntl = s.dcntl := rfl
@[simp] theorem start_dfifo : (start s).dfifo = s.dfifo := rfl
@[simp] theorem start_ctest5 : (start s).ctest5 = s.ctest5 := rfl
@[simp] theorem start_sstop : (start s).sstop = false := rfl
@[simp] theorem start_waiting : (start s).waiting = s.waiting := rfl
@[simp] theorem start_msg : (start s).msg = s.msg := rfl
@[simp] theorem start_msgAction : (start s).msgAction = s.msgAction := rfl
@[simp] theorem start_request : (start s).request = s.request := rfl
@[simp] theorem start_status : (start s).status = s.status := rfl
@[simp] theorem start_selAtn : (start s).selAtn = s.selAtn := rfl
@[simp] theorem start_currentLun : (start s).currentLun = s.currentLun := rfl
@[simp] theorem start_selectTag : (start s).selectTag = s.selectTag := rfl
@[simp] theorem start_tagValid : (start s).tagValid = s.tagValid := rfl
@[simp] theorem start_icount : (start s).icount = s.icount := rfl
@[simp] theorem start_rbc : (start s).rbc = s.rbc := rfl
@[simp] theorem start_yield : (start s).yield = s.yield := rfl
@[simp] theorem start_mem : (start s).mem = s.mem := rfl
@[simp] theorem start_params : (start s).params = s.params := rfl
@[simp] theorem start_inRun : (start s).inRun = s.inRun := rfl
@[simp] theorem start_inbox : (start s).inbox = s.inbox := rfl
@[simp] theorem start_io : (start s).io = s.io := rfl

/-! ### `stop` -/

@[simp] theorem stop_dsp : (stop s).dsp = s.dsp := rfl
@[simp] theorem stop_temp : (stop s).temp = s.temp := rfl
@[simp] theorem stop_dbc : (stop s).dbc = s.dbc := rfl
@[simp] theorem stop_dnad : (stop s).dnad = s.dnad := rfl
@[simp] theorem stop_dsa : (stop s).dsa = s.dsa := rfl
@[simp] theorem stop_dsps : (stop s).dsps = s.dsps := rfl
@[simp] theorem stop_dcmd : (stop s).dcmd = s.dcmd := rfl
@[simp] theorem stop_carry : (stop s).carry = s.carry := rfl
@[simp] theorem stop_scratch : (stop s).scratch = s.scratch := rfl
@[simp] theorem stop_sfbr : (stop s).sfbr = s.sfbr := rfl
@[simp] theorem stop_storage : (stop s).storage = s.storage := rfl
@[simp] theorem stop_scntl1 : (stop s).scntl1 = s.scntl1 := rfl
@[simp] theorem stop_sdid : (stop s).sdid = s.sdid := rfl
@[simp] theorem stop_socl : (stop s).socl = s.socl := rfl
@[simp] theorem stop_phase : (stop s).phase = s.phase := rfl
@[simp] theorem stop_sstat0 : (stop s).sstat0 = s.sstat0 := rfl
@[simp] theorem stop_sidl : (stop s).sidl = s.sidl := rfl
@[simp] theorem stop_sist0 : (stop s).sist0 = s.sist0 := rfl
@[simp] theorem stop_sist1 : (stop s).sist1 = s.sist1 := rfl
@[simp] theorem stop_sien0 : (stop s).sien0 = s.sien0 := rfl
@[simp] theorem stop_sien1 : (stop s).sien1 = s.sien1 := rfl
@[simp] theorem stop_dstat : (stop s).dstat = s.dstat := rfl
@[simp] theorem stop_dien : (stop s).dien = s.dien := rfl
@[simp] theorem stop_intf : (stop s).intf = s.intf := rfl
@[simp] theorem stop_istatHi : (stop s).istatHi = s.istatHi := rfl
@[simp] theorem stop_irq : (stop s).irq = s.irq := rfl
@[simp] theorem stop_dmode : (stop s).dmode = s.dmode := rfl
@[simp] theorem stop_dcntl : (stop s).dcntl = s.dcntl := rfl
@[simp] theorem stop_dfifo : (stop s).dfifo = s.dfifo := rfl
@[simp] theorem stop_ctest5 : (stop s).ctest5 = s.ctest5 := rfl
@[simp] theorem stop_sstop : (stop s).sstop = true := rfl
@[simp] theorem stop_waiting : (stop s).waiting = s.waiting := rfl
@[simp] theorem stop_msg : (stop s).msg = s.msg := rfl
@[simp] theorem stop_msgAction : (stop s).msgAction = s.msgAction := rfl
@[simp] theorem stop_request : (stop s).request = s.request := rfl
@[simp] theorem stop_status : (stop s).status = s.status := rfl
@[simp] theorem stop_selAtn : (stop s).selAtn = s.selAtn := rfl
@[simp] theorem stop_currentLun : (stop s).currentLun = s.currentLun := rfl
@[simp] theorem stop_selectTag : (stop s).selectTag = s.selectTag := rfl
@[simp] theorem stop_tagValid : (stop s).tagValid = s.tagValid := rfl
@[simp] theorem stop_icount : (stop s).icount = s.icount := rfl
@[simp] theorem stop_rbc : (stop s).rbc = s.rbc := rfl
@[simp] theorem stop_yield : (stop s).yield = s.yield := rfl
@[simp] theorem stop_mem : (stop s).mem = s.mem := rfl
@[simp] theorem stop_params : (stop s).params = s.params := rfl
@[simp] theorem stop_inRun : (stop s).inRun = s.inRun := rfl
@[simp] theorem stop_inbox : (stop s).inbox = s.inbox := rfl
@[simp] theorem stop_io : (stop s).io = s.io := rfl

/-! ### `setPhase` -/

@[simp] theorem setPhase_dsp (p : Phase) : (setPhase p s).dsp = s.dsp := rfl
@[simp] theorem setPhase_temp (p : Phase) : (setPhase p s).temp = s.temp := rfl
@[simp] theorem setPhase_dbc (p : Phase) : (setPhase p s).dbc = s.dbc := rfl
@[simp] theorem setPhase_dnad (p : Phase) : (setPhase p s).dnad = s.dnad := rfl
@[simp] theorem setPhase_dsa (p : Phase) : (setPhase p s).dsa = s.dsa := rfl
@[simp] theorem setPhase_dsps (p : Phase) : (setPhase p s).dsps = s.dsps := rfl
@[simp] theorem setPhase_dcmd (p : Phase) : (setPhase p s).dcmd = s.dcmd := rfl
@[simp] theorem setPhase_carry (p : Phase) : (setPhase p s).carry = s.carry := rfl
@[simp] theorem setPhase_scratch (p : Phase) : (setPhase p s).scratch = s.scratch := rfl
@[simp] theorem setPhase_sfbr (p : Phase) : (setPhase p s).sfbr = s.sfbr := rfl
@[simp] theorem setPhase_storage (p : Phase) : (setPhase p s).storage = s.storage := rfl
@[simp] theorem setPhase_scntl1 (p : Phase) : (setPhase p s).scntl1 = s.scntl1 := rfl
@[simp] theorem setPhase_sdid (p : Phase) : (setPhase p s).sdid = s.sdid := rfl
@[simp] theorem setPhase_socl (p : Phase) : (setPhase p s).socl = s.socl := rfl
@[simp] theorem setPhase_phase (p : Phase) : (setPhase p s).phase = p := rfl
@[simp] theorem setPhase_sstat0 (p : Phase) : (setPhase p s).sstat0 = s.sstat0 := rfl
@[simp] theorem setPhase_sidl (p : Phase) : (setPhase p s).sidl = s.sidl := rfl
@[simp] theorem setPhase_sist0 (p : Phase) : (setPhase p s).sist0 = s.sist0 := rfl
@[simp] theorem setPhase_sist1 (p : Phase) : (setPhase p s).sist1 = s.sist1 := rfl
@[simp] theorem setPhase_sien0 (p : Phase) : (setPhase p s).sien0 = s.sien0 := rfl
@[simp] theorem setPhase_sien1 (p : Phase) : (setPhase p s).sien1 = s.sien1 := rfl
@[simp] theorem setPhase_dstat (p : Phase) : (setPhase p s).dstat = s.dstat := rfl
@[simp] theorem setPhase_dien (p : Phase) : (setPhase p s).dien = s.dien := rfl
@[simp] theorem setPhase_intf (p : Phase) : (setPhase p s).intf = s.intf := rfl
@[simp] theorem setPhase_istatHi (p : Phase) : (setPhase p s).istatHi = s.istatHi := rfl
@[simp] theorem setPhase_irq (p : Phase) : (setPhase p s).irq = s.irq := rfl
@[simp] theorem setPhase_dmode (p : Phase) : (setPhase p s).dmode = s.dmode := rfl
@[simp] theorem setPhase_dcntl (p : Phase) : (setPhase p s).dcntl = s.dcntl := rfl
@[simp] theorem setPhase_dfifo (p : Phase) : (setPhase p s).dfifo = s.dfifo := rfl
@[simp] theorem setPhase_ctest5 (p : Phase) : (setPhase p s).ctest5 = s.ctest5 := rfl
@[simp] theorem setPhase_sstop (p : Phase) : (setPhase p s).sstop = s.sstop := rfl
@[simp] theorem setPhase_waiting (p : Phase) : (setPhase p s).waiting = s.waiting := rfl
@[simp] theorem setPhase_msg (p : Phase) : (setPhase p s).msg = s.msg := rfl
@[simp] theorem setPhase_msgAction (p : Phase) : (setPhase p s).msgAction = s.msgAction := rfl
@[simp] theorem setPhase_request (p : Phase) : (setPhase p s).request = s.request := rfl
@[simp] theorem setPhase_status (p : Phase) : (setPhase p s).status = s.status := rfl
@[simp] theorem setPhase_selAtn (p : Phase) : (setPhase p s).selAtn = s.selAtn := rfl
@[simp] theorem setPhase_currentLun (p : Phase) : (setPhase p s).currentLun = s.currentLun := rfl
@[simp] theorem setPhase_selectTag (p : Phase) : (setPhase p s).selectTag = s.selectTag := rfl
@[simp] theorem setPhase_tagValid (p : Phase) : (setPhase p s).tagValid = s.tagValid := rfl
@[simp] theorem setPhase_icount (p : Phase) : (setPhase p s).icount = s.icount := rfl
@[simp] theorem setPhase_rbc (p : Phase) : (setPhase p s).rbc = s.rbc := rfl
@[simp] theorem setPhase_yield (p : Phase) : (setPhase p s).yield = s.yield := rfl
@[simp] theorem setPhase_mem (p : Phase) : (setPhase p s).mem = s.mem := rfl
@[simp] theorem setPhase_params (p : Phase) : (setPhase p s).params = s.params := rfl
@[simp] theorem setPhase_inRun (p : Phase) : (setPhase p s).inRun = s.inRun := rfl
@[simp] theorem setPhase_inbox (p : Phase) : (setPhase p s).inbox = s.inbox := rfl
@[simp] theorem setPhase_io (p : Phase) : (setPhase p s).io = s.io := rfl

/-! ### `disconnect` -/

@[simp] theorem disconnect_dsp : (disconnect s).dsp = s.dsp := rfl
@[simp] theorem disconnect_temp : (disconnect s).temp = s.temp := rfl
@[simp] theorem disconnect_dbc : (disconnect s).dbc = s.dbc := rfl
@[simp] theorem disconnect_dnad : (disconnect s).dnad = s.dnad := rfl
@[simp] theorem disconnect_dsa : (disconnect s).dsa = s.dsa := rfl
@[simp] theorem disconnect_dsps : (disconnect s).dsps = s.dsps := rfl
@[simp] theorem disconnect_dcmd : (disconnect s).dcmd = s.dcmd := rfl
@[simp] theorem disconnect_carry : (disconnect s).carry = s.carry := rfl
@[simp] theorem disconnect_scratch : (disconnect s).scratch = s.scratch := rfl
@[simp] theorem disconnect_sfbr : (disconnect s).sfbr = s.sfbr := rfl
@[simp] theorem disconnect_storage : (disconnect s).storage = s.storage := rfl
@[simp] theorem disconnect_scntl1 : (disconnect s).scntl1 = s.scntl1 &&& 0xEF#8 := rfl
@[simp] theorem disconnect_sdid : (disconnect s).sdid = s.sdid := rfl
@[simp] theorem disconnect_socl : (disconnect s).socl = s.socl := rfl
@[simp] theorem disconnect_phase : (disconnect s).phase = (if s.selAtn then .msgIn else .dataOut) := rfl
@[simp] theorem disconnect_sstat0 : (disconnect s).sstat0 = s.sstat0 := rfl
@[simp] theorem disconnect_sidl : (disconnect s).sidl = s.sidl := rfl
@[simp] theorem disconnect_sist0 : (disconnect s).sist0 = s.sist0 := rfl
@[simp] theorem disconnect_sist1 : (disconnect s).sist1 = s.sist1 := rfl
@[simp] theorem disconnect_sien0 : (disconnect s).sien0 = s.sien0 := rfl
@[simp] theorem disconnect_sien1 : (disconnect s).sien1 = s.sien1 := rfl
@[simp] theorem disconnect_dstat : (disconnect s).dstat = s.dstat := rfl
@[simp] theorem disconnect_dien : (disconnect s).dien = s.dien := rfl
@[simp] theorem disconnect_intf : (disconnect s).intf = s.intf := rfl
@[simp] theorem disconnect_istatHi : (disconnect s).istatHi = s.istatHi := rfl
@[simp] theorem disconnect_irq : (disconnect s).irq = s.irq := rfl
@[simp] theorem disconnect_dmode : (disconnect s).dmode = s.dmode := rfl
@[simp] theorem disconnect_dcntl : (disconnect s).dcntl = s.dcntl := rfl
@[simp] theorem disconnect_dfifo : (disconnect s).dfifo = s.dfifo := rfl
@[simp] theorem disconnect_ctest5 : (disconnect s).ctest5 = s.ctest5 := rfl
@[simp] theorem disconnect_sstop : (disconnect s).sstop = s.sstop := rfl
@[simp] theorem disconnect_waiting : (disconnect s).waiting = s.waiting := rfl
@[simp] theorem disconnect_msg : (disconnect s).msg = s.msg := rfl
@[simp] theorem disconnect_msgAction : (disconnect s).msgAction = s.msgAction := rfl
@[simp] theorem disconnect_request : (disconnect s).request = none := rfl
@[simp] theorem disconnect_status : (disconnect s).status = s.status := rfl
@[simp] theorem disconnect_selAtn : (disconnect s).selAtn = s.selAtn := rfl
@[simp] theorem disconnect_currentLun : (disconnect s).currentLun = s.currentLun := rfl
@[simp] theorem disconnect_selectTag : (disconnect s).selectTag = s.selectTag := rfl
@[simp] theorem disconnect_tagValid : (disconnect s).tagValid = s.tagValid := rfl
@[simp] theorem disconnect_icount : (disconnect s).icount = s.icount := rfl
@[simp] theorem disconnect_rbc : (disconnect s).rbc = s.rbc := rfl
@[simp] theorem disconnect_yield : (disconnect s).yield = s.yield := rfl
@[simp] theorem disconnect_mem : (disconnect s).mem = s.mem := rfl
@[simp] theorem disconnect_params : (disconnect s).params = s.params := rfl
@[simp] theorem disconnect_inRun : (disconnect s).inRun = s.inRun := rfl
@[simp] theorem disconnect_inbox : (disconnect s).inbox = s.inbox := rfl
@[simp] theorem disconnect_io : (disconnect s).io = s.io := rfl

/-! ### `addMsgByte` -/

@[simp] theorem addMsgByte_dsp (b : Byte) : (addMsgByte b s).dsp = s.dsp := rfl
@[simp] theorem addMsgByte_temp (b : Byte) : (addMsgByte b s).temp = s.temp := rfl
@[simp] theorem addMsgByte_dbc (b : Byte) : (addMsgByte b s).dbc = s.dbc := rfl
@[simp] theorem addMsgByte_dnad (b : Byte) : (addMsgByte b s).dnad = s.dnad := rfl
@[simp] theorem addMsgByte_dsa (b : Byte) : (addMsgByte b s).dsa = s.dsa := rfl
@[simp] theorem addMsgByte_dsps (b : Byte) : (addMsgByte b s).dsps = s.dsps := rfl
@[simp] theorem addMsgByte_dcmd (b : Byte) : (addMsgByte b s).dcmd = s.dcmd := rfl
@[simp] theorem addMsgByte_carry (b : Byte) : (addMsgByte b s).carry = s.carry := rfl
@[simp] theorem addMsgByte_scratch (b : Byte) : (addMsgByte b s).scratch = s.scratch := rfl
@[simp] theorem addMsgByte_sfbr (b : Byte) : (addMsgByte b s).sfbr = s.sfbr := rfl
@[simp] theorem addMsgByte_storage (b : Byte) : (addMsgByte b s).storage = s.storage := rfl
@[simp] theorem addMsgByte_scntl1 (b : Byte) : (addMsgByte b s).scntl1 = s.scntl1 := rfl
@[simp] theorem addMsgByte_sdid (b : Byte) : (addMsgByte b s).sdid = s.sdid := rfl
@[simp] theorem addMsgByte_socl (b : Byte) : (addMsgByte b s).socl = s.socl := rfl
@[simp] theorem addMsgByte_phase (b : Byte) : (addMsgByte b s).phase = s.phase := rfl
@[simp] theorem addMsgByte_sstat0 (b : Byte) : (addMsgByte b s).sstat0 = s.sstat0 := rfl
@[simp] theorem addMsgByte_sidl (b : Byte) : (addMsgByte b s).sidl = s.sidl := rfl
@[simp] theorem addMsgByte_sist0 (b : Byte) : (addMsgByte b s).sist0 = s.sist0 := rfl
@[simp] theorem addMsgByte_sist1 (b : Byte) : (addMsgByte b s).sist1 = s.sist1 := rfl
@[simp] theorem addMsgByte_sien0 (b : Byte) : (addMsgByte b s).sien0 = s.sien0 := rfl
@[simp] theorem addMsgByte_sien1 (b : Byte) : (addMsgByte b s).sien1 = s.sien1 := rfl
@[simp] theorem addMsgByte_dstat (b : Byte) : (addMsgByte b s).dstat = s.dstat := rfl
@[simp] theorem addMsgByte_dien (b : Byte) : (addMsgByte b s).dien = s.dien := rfl
@[simp] theorem addMsgByte_intf (b : Byte) : (addMsgByte b s).intf = s.intf := rfl
@[simp] theorem addMsgByte_istatHi (b : Byte) : (addMsgByte b s).istatHi = s.istatHi := rfl
@[simp] theorem addMsgByte_irq (b : Byte) : (addMsgByte b s).irq = s.irq := rfl
@[simp] theorem addMsgByte_dmode (b : Byte) : (addMsgByte b s).dmode = s.dmode := rfl
@[simp] theorem addMsgByte_dcntl (b : Byte) : (addMsgByte b s).dcntl = s.dcntl := rfl
@[simp] theorem addMsgByte_dfifo (b : Byte) : (addMsgByte b s).dfifo = s.dfifo := rfl
@[simp] theorem addMsgByte_ctest5 (b : Byte) : (addMsgByte b s).ctest5 = s.ctest5 := rfl
@[simp] theorem addMsgByte_sstop (b : Byte) : (addMsgByte b s).sstop = s.sstop := rfl
@[simp] theorem addMsgByte_waiting (b : Byte) : (addMsgByte b s).waiting = s.waiting := rfl
@[simp] theorem addMsgByte_msg (b : Byte) : (addMsgByte b s).msg = (if s.msg.length < Config.msgMax then s.msg ++ [b] else s.msg) := rfl
@[simp] theorem addMsgByte_msgAction (b : Byte) : (addMsgByte b s).msgAction = s.msgAction := rfl
@[simp] theorem addMsgByte_request (b : Byte) : (addMsgByte b s).request = s.request := rfl
@[simp] theorem addMsgByte_status (b : Byte) : (addMsgByte b s).status = s.status := rfl
@[simp] theorem addMsgByte_selAtn (b : Byte) : (addMsgByte b s).selAtn = s.selAtn := rfl
@[simp] theorem addMsgByte_currentLun (b : Byte) : (addMsgByte b s).currentLun = s.currentLun := rfl
@[simp] theorem addMsgByte_selectTag (b : Byte) : (addMsgByte b s).selectTag = s.selectTag := rfl
@[simp] theorem addMsgByte_tagValid (b : Byte) : (addMsgByte b s).tagValid = s.tagValid := rfl
@[simp] theorem addMsgByte_icount (b : Byte) : (addMsgByte b s).icount = s.icount := rfl
@[simp] theorem addMsgByte_rbc (b : Byte) : (addMsgByte b s).rbc = s.rbc := rfl
@[simp] theorem addMsgByte_yield (b : Byte) : (addMsgByte b s).yield = s.yield := rfl
@[simp] theorem addMsgByte_mem (b : Byte) : (addMsgByte b s).mem = s.mem := rfl
@[simp] theorem addMsgByte_params (b : Byte) : (addMsgByte b s).params = s.params := rfl
@[simp] theorem addMsgByte_inRun (b : Byte) : (addMsgByte b s).inRun = s.inRun := rfl
@[simp] theorem addMsgByte_inbox (b : Byte) : (addMsgByte b s).inbox = s.inbox := rfl
@[simp] theorem addMsgByte_io (b : Byte) : (addMsgByte b s).io = s.io := rfl

/-! ### `memWrite` -/

@[simp] theorem memWrite_dsp (a : Word) (bs : List Byte) : (memWrite a bs s).dsp = s.dsp := rfl
@[simp] theorem memWrite_temp (a : Word) (bs : List Byte) : (memWrite a bs s).temp = s.temp := rfl
@[simp] theorem memWrite_dbc (a : Word) (bs : List Byte) : (memWrite a bs s).dbc = s.dbc := rfl
@[simp] theorem memWrite_dnad (a : Word) (bs : List Byte) : (memWrite a bs s).dnad = s.dnad := rfl
@[simp] theorem memWrite_dsa (a : Word) (bs : List Byte) : (memWrite a bs s).dsa = s.dsa := rfl
@[simp] theorem memWrite_dsps (a : Word) (bs : List Byte) : (memWrite a bs s).dsps = s.dsps := rfl
@[simp] theorem memWrite_dcmd (a : Word) (bs : List Byte) : (memWrite a bs s).dcmd = s.dcmd := rfl
@[simp] theorem memWrite_carry (a : Word) (bs : List Byte) : (memWrite a bs s).carry = s.carry := rfl
@[simp] theorem memWrite_scratch (a : Word) (bs : List Byte) : (memWrite a bs s).scratch = s.scratch := rfl
@[simp] theorem memWrite_sfbr (a : Word) (bs : List Byte) : (memWrite a bs s).sfbr = s.sfbr := rfl
@[simp] theorem memWrite_storage (a : Word) (bs : List Byte) : (memWrite a bs s).storage = s.storage := rfl
@[simp] theorem memWrite_scntl1 (a : Word) (bs : List Byte) : (memWrite a bs s).scntl1 = s.scntl1 := rfl
@[simp] theorem memWrite_sdid (a : Word) (bs : List Byte) : (memWrite a bs s).sdid = s.sdid := rfl
@[simp] theorem memWrite_socl (a : Word) (bs : List Byte) : (memWrite a bs s).socl = s.socl := rfl
@[simp] theorem memWrite_phase (a : Word) (bs : List Byte) : (memWrite a bs s).phase = s.phase := rfl
@[simp] theorem memWrite_sstat0 (a : Word) (bs : List Byte) : (memWrite a bs s).sstat0 = s.sstat0 := rfl
@[simp] theorem memWrite_sidl (a : Word) (bs : List Byte) : (memWrite a bs s).sidl = s.sidl := rfl
@[simp] theorem memWrite_sist0 (a : Word) (bs : List Byte) : (memWrite a bs s).sist0 = s.sist0 := rfl
@[simp] theorem memWrite_sist1 (a : Word) (bs : List Byte) : (memWrite a bs s).sist1 = s.sist1 := rfl
@[simp] theorem memWrite_sien0 (a : Word) (bs : List Byte) : (memWrite a bs s).sien0 = s.sien0 := rfl
@[simp] theorem memWrite_sien1 (a : Word) (bs : List Byte) : (memWrite a bs s).sien1 = s.sien1 := rfl
@[simp] theorem memWrite_dstat (a : Word) (bs : List Byte) : (memWrite a bs s).dstat = s.dstat := rfl
@[simp] theorem memWrite_dien (a : Word) (bs : List Byte) : (memWrite a bs s).dien = s.dien := rfl
@[simp] theorem memWrite_intf (a : Word) (bs : List Byte) : (memWrite a bs s).intf = s.intf := rfl
@[simp] theorem memWrite_istatHi (a : Word) (bs : List Byte) : (memWrite a bs s).istatHi = s.istatHi := rfl
@[simp] theorem memWrite_irq (a : Word) (bs : List Byte) : (memWrite a bs s).irq = s.irq := rfl
@[simp] theorem memWrite_dmode (a : Word) (bs : List Byte) : (memWrite a bs s).dmode = s.dmode := rfl
@[simp] theorem memWrite_dcntl (a : Word) (bs : List Byte) : (memWrite a bs s).dcntl = s.dcntl := rfl
@[simp] theorem memWrite_dfifo (a : Word) (bs : List Byte) : (memWrite a bs s).dfifo = s.dfifo := rfl
@[simp] theorem memWrite_ctest5 (a : Word) (bs : List Byte) : (memWrite a bs s).ctest5 = s.ctest5 := rfl
@[simp] theorem memWrite_sstop (a : Word) (bs : List Byte) : (memWrite a bs s).sstop = s.sstop := rfl
@[simp] theorem memWrite_waiting (a : Word) (bs : List Byte) : (memWrite a bs s).waiting = s.waiting := rfl
@[simp] theorem memWrite_msg (a : Word) (bs : List Byte) : (memWrite a bs s).msg = s.msg := rfl
@[simp] theorem memWrite_msgAction (a : Word) (bs : List Byte) : (memWrite a bs s).msgAction = s.msgAction := rfl
@[simp] theorem memWrite_request (a : Word) (bs : List Byte) : (memWrite a bs s).request = s.request := rfl
@[simp] theorem memWrite_status (a : Word) (bs : List Byte) : (memWrite a bs s).status = s.status := rfl
@[simp] theorem memWrite_selAtn (a : Word) (bs : List Byte) : (memWrite a bs s).selAtn = s.selAtn := rfl
@[simp] theorem memWrite_currentLun (a : Word) (bs : List Byte) : (memWrite a bs s).currentLun = s.currentLun := rfl
@[simp] theorem memWrite_selectTag (a : Word) (bs : List Byte) : (memWrite a bs s).selectTag = s.selectTag := rfl
@[simp] theorem memWrite_tagValid (a : Word) (bs : List Byte) : (memWrite a bs s).tagValid = s.tagValid := rfl
@[simp] theorem memWrite_icount (a : Word) (bs : List Byte) : (memWrite a bs s).icount = s.icount := rfl
@[simp] theorem memWrite_rbc (a : Word) (bs : List Byte) : (memWrite a bs s).rbc = s.rbc := rfl
@[simp] theorem memWrite_yield (a : Word) (bs : List Byte) : (memWrite a bs s).yield = s.yield := rfl
@[simp] theorem memWrite_mem (a : Word) (bs : List Byte) : (memWrite a bs s).mem = s.mem.store a bs := rfl
@[simp] theorem memWrite_params (a : Word) (bs : List Byte) : (memWrite a bs s).params = s.params := rfl
@[simp] theorem memWrite_inRun (a : Word) (bs : List Byte) : (memWrite a bs s).inRun = s.inRun := rfl
@[simp] theorem memWrite_inbox (a : Word) (bs : List Byte) : (memWrite a bs s).inbox = s.inbox := rfl
@[simp] theorem memWrite_io (a : Word) (bs : List Byte) : (memWrite a bs s).io = s.io := rfl

/-! ### `ioPrelude` -/

@[simp] theorem ioPrelude_dsp (t : Target) : (ioPrelude t s).dsp = s.dsp := rfl
@[simp] theorem ioPrelude_temp (t : Target) : (ioPrelude t s).temp = s.temp := rfl
@[simp] theorem ioPrelude_dbc (t : Target) : (ioPrelude t s).dbc = s.dbc := rfl
@[simp] theorem ioPrelude_dnad (t : Target) : (ioPrelude t s).dnad = targetAddr t s := rfl
@[simp] theorem ioPrelude_dsa (t : Target) : (ioPrelude t s).dsa = s.dsa := rfl
@[simp] theorem ioPrelude_dsps (t : Target) : (ioPrelude t s).dsps = s.dsps := rfl
@[simp] theorem ioPrelude_dcmd (t : Target) : (ioPrelude t s).dcmd = s.dcmd := rfl
@[simp] theorem ioPrelude_carry (t : Target) : (ioPrelude t s).carry = s.carry := rfl
@[simp] theorem ioPrelude_scratch (t : Target) : (ioPrelude t s).scratch = s.scratch := rfl
@[simp] theorem ioPrelude_sfbr (t : Target) : (ioPrelude t s).sfbr = s.sfbr := rfl
@[simp] theorem ioPrelude_storage (t : Target) : (ioPrelude t s).storage = s.storage := rfl
@[simp] theorem ioPrelude_scntl1 (t : Target) : (ioPrelude t s).scntl1 = s.scntl1 := rfl
@[simp] theorem ioPrelude_sdid (t : Target) : (ioPrelude t s).sdid = s.sdid := rfl
@[simp] theorem ioPrelude_socl (t : Target) : (ioPrelude t s).socl = s.socl := rfl
@[simp] theorem ioPrelude_phase (t : Target) : (ioPrelude t s).phase = s.phase := rfl
@[simp] theorem ioPrelude_sstat0 (t : Target) : (ioPrelude t s).sstat0 = s.sstat0 := rfl
@[simp] theorem ioPrelude_sidl (t : Target) : (ioPrelude t s).sidl = s.sidl := rfl
@[simp] theorem ioPrelude_sist0 (t : Target) : (ioPrelude t s).sist0 = s.sist0 := rfl
@[simp] theorem ioPrelude_sist1 (t : Target) : (ioPrelude t s).sist1 = s.sist1 := rfl
@[simp] theorem ioPrelude_sien0 (t : Target) : (ioPrelude t s).sien0 = s.sien0 := rfl
@[simp] theorem ioPrelude_sien1 (t : Target) : (ioPrelude t s).sien1 = s.sien1 := rfl
@[simp] theorem ioPrelude_dstat (t : Target) : (ioPrelude t s).dstat = s.dstat := rfl
@[simp] theorem ioPrelude_dien (t : Target) : (ioPrelude t s).dien = s.dien := rfl
@[simp] theorem ioPrelude_intf (t : Target) : (ioPrelude t s).intf = s.intf := rfl
@[simp] theorem ioPrelude_istatHi (t : Target) : (ioPrelude t s).istatHi = s.istatHi := rfl
@[simp] theorem ioPrelude_irq (t : Target) : (ioPrelude t s).irq = s.irq := rfl
@[simp] theorem ioPrelude_dmode (t : Target) : (ioPrelude t s).dmode = s.dmode := rfl
@[simp] theorem ioPrelude_dcntl (t : Target) : (ioPrelude t s).dcntl = s.dcntl := rfl
@[simp] theorem ioPrelude_dfifo (t : Target) : (ioPrelude t s).dfifo = s.dfifo := rfl
@[simp] theorem ioPrelude_ctest5 (t : Target) : (ioPrelude t s).ctest5 = s.ctest5 := rfl
@[simp] theorem ioPrelude_sstop (t : Target) : (ioPrelude t s).sstop = s.sstop := rfl
@[simp] theorem ioPrelude_waiting (t : Target) : (ioPrelude t s).waiting = s.waiting := rfl
@[simp] theorem ioPrelude_msg (t : Target) : (ioPrelude t s).msg = s.msg := rfl
@[simp] theorem ioPrelude_msgAction (t : Target) : (ioPrelude t s).msgAction = s.msgAction := rfl
@[simp] theorem ioPrelude_request (t : Target) : (ioPrelude t s).request = s.request := rfl
@[simp] theorem ioPrelude_status (t : Target) : (ioPrelude t s).status = s.status := rfl
@[simp] theorem ioPrelude_selAtn (t : Target) : (ioPrelude t s).selAtn = s.selAtn := rfl
@[simp] theorem ioPrelude_currentLun (t : Target) : (ioPrelude t s).currentLun = s.currentLun := rfl
@[simp] theorem ioPrelude_selectTag (t : Target) : (ioPrelude t s).selectTag = s.selectTag := rfl
@[simp] theorem ioPrelude_tagValid (t : Target) : (ioPrelude t s).tagValid = s.tagValid := rfl
@[simp] theorem ioPrelude_icount (t : Target) : (ioPrelude t s).icount = s.icount := rfl
@[simp] theorem ioPrelude_rbc (t : Target) : (ioPrelude t s).rbc = s.rbc := rfl
@[simp] theorem ioPrelude_yield (t : Target) : (ioPrelude t s).yield = s.yield := rfl
@[simp] theorem ioPrelude_mem (t : Target) : (ioPrelude t s).mem = s.mem := rfl
@[simp] theorem ioPrelude_params (t : Target) : (ioPrelude t s).params = s.params := rfl
@[simp] theorem ioPrelude_inRun (t : Target) : (ioPrelude t s).inRun = s.inRun := rfl
@[simp] theorem ioPrelude_inbox (t : Target) : (ioPrelude t s).inbox = s.inbox := rfl
@[simp] theorem ioPrelude_io (t : Target) : (ioPrelude t s).io = s.io := rfl

/-! ### `loadCount` -/

@[simp] theorem loadCount_dsp (c : Word24) : (loadCount c s).dsp = s.dsp := rfl
@[simp] theorem loadCount_temp (c : Word24) : (loadCount c s).temp = s.temp := rfl
@[simp] theorem loadCount_dbc (c : Word24) : (loadCount c s).dbc = c := rfl
@[simp] theorem loadCount_dnad (c : Word24) : (loadCount c s).dnad = s.dnad := rfl
@[simp] theorem loadCount_dsa (c : Word24) : (loadCount c s).dsa = s.dsa := rfl
@[simp] theorem loadCount_dsps (c : Word24) : (loadCount c s).dsps = s.dsps := rfl
@[simp] theorem loadCount_dcmd (c : Word24) : (loadCount c s).dcmd = s.dcmd := rfl
@[simp] theorem loadCount_carry (c : Word24) : (loadCount c s).carry = s.carry := rfl
@[simp] theorem loadCount_scratch (c : Word24) : (loadCount c s).scratch = s.scratch := rfl
@[simp] theorem loadCount_sfbr (c : Word24) : (loadCount c s).sfbr = s.sfbr := rfl
@[simp] theorem loadCount_storage (c : Word24) : (loadCount c s).storage = s.storage := rfl
@[simp] theorem loadCount_scntl1 (c : Word24) : (loadCount c s).scntl1 = s.scntl1 := rfl
@[simp] theorem loadCount_sdid (c : Word24) : (loadCount c s).sdid = s.sdid := rfl
@[simp] theorem loadCount_socl (c : Word24) : (loadCount c s).socl = s.socl := rfl
@[simp] theorem loadCount_phase (c : Word24) : (loadCount c s).phase = s.phase := rfl
@[simp] theorem loadCount_sstat0 (c : Word24) : (loadCount c s).sstat0 = s.sstat0 := rfl
@[simp] theorem loadCount_sidl (c : Word24) : (loadCount c s).sidl = s.sidl := rfl
@[simp] theorem loadCount_sist0 (c : Word24) : (loadCount c s).sist0 = s.sist0 := rfl
@[simp] theorem loadCount_sist1 (c : Word24) : (loadCount c s).sist1 = s.sist1 := rfl
@[simp] theorem loadCount_sien0 (c : Word24) : (loadCount c s).sien0 = s.sien0 := rfl
@[simp] theorem loadCount_sien1 (c : Word24) : (loadCount c s).sien1 = s.sien1 := rfl
@[simp] theorem loadCount_dstat (c : Word24) : (loadCount c s).dstat = s.dstat := rfl
@[simp] theorem loadCount_dien (c : Word24) : (loadCount c s).dien = s.dien := rfl
@[simp] theorem loadCount_intf (c : Word24) : (loadCount c s).intf = s.intf := rfl
@[simp] theorem loadCount_istatHi (c : Word24) : (loadCount c s).istatHi = s.istatHi := rfl
@[simp] theorem loadCount_irq (c : Word24) : (loadCount c s).irq = s.irq := rfl
@[simp] theorem loadCount_dmode (c : Word24) : (loadCount c s).dmode = s.dmode := rfl
@[simp] theorem loadCount_dcntl (c : Word24) : (loadCount c s).dcntl = s.dcntl := rfl
@[simp] theorem loadCount_dfifo (c : Word24) : (loadCount c s).dfifo = s.dfifo := rfl
@[simp] theorem loadCount_ctest5 (c : Word24) : (loadCount c s).ctest5 = s.ctest5 := rfl
@[simp] theorem loadCount_sstop (c : Word24) : (loadCount c s).sstop = s.sstop := rfl
@[simp] theorem loadCount_waiting (c : Word24) : (loadCount c s).waiting = s.waiting := rfl
@[simp] theorem loadCount_msg (c : Word24) : (loadCount c s).msg = s.msg := rfl
@[simp] theorem loadCount_msgAction (c : Word24) : (loadCount c s).msgAction = s.msgAction := rfl
@[simp] theorem loadCount_request (c : Word24) : (loadCount c s).request = s.request := rfl
@[simp] theorem loadCount_status (c : Word24) : (loadCount c s).status = s.status := rfl
@[simp] theorem loadCount_selAtn (c : Word24) : (loadCount c s).selAtn = s.selAtn := rfl
@[simp] theorem loadCount_currentLun (c : Word24) : (loadCount c s).currentLun = s.currentLun := rfl
@[simp] theorem loadCount_selectTag (c : Word24) : (loadCount c s).selectTag = s.selectTag := rfl
@[simp] theorem loadCount_tagValid (c : Word24) : (loadCount c s).tagValid = s.tagValid := rfl
@[simp] theorem loadCount_icount (c : Word24) : (loadCount c s).icount = s.icount := rfl
@[simp] theorem loadCount_rbc (c : Word24) : (loadCount c s).rbc = c := rfl
@[simp] theorem loadCount_yield (c : Word24) : (loadCount c s).yield = s.yield := rfl
@[simp] theorem loadCount_mem (c : Word24) : (loadCount c s).mem = s.mem := rfl
@[simp] theorem loadCount_params (c : Word24) : (loadCount c s).params = s.params := rfl
@[simp] theorem loadCount_inRun (c : Word24) : (loadCount c s).inRun = s.inRun := rfl
@[simp] theorem loadCount_inbox (c : Word24) : (loadCount c s).inbox = s.inbox := rfl
@[simp] theorem loadCount_io (c : Word24) : (loadCount c s).io = s.io := rfl

/-! ### `skipBytes` -/

@[simp] theorem skipBytes_dsp (k : Nat) : (skipBytes k s).dsp = s.dsp := rfl
@[simp] theorem skipBytes_temp (k : Nat) : (skipBytes k s).temp = s.temp := rfl
@[simp] theorem skipBytes_dbc (k : Nat) : (skipBytes k s).dbc = satSub s.dbc (BitVec.ofNat 24 k) := rfl
@[simp] theorem skipBytes_dnad (k : Nat) : (skipBytes k s).dnad = s.dnad + BitVec.ofNat 32 k := rfl
@[simp] theorem skipBytes_dsa (k : Nat) : (skipBytes k s).dsa = s.dsa := rfl
@[simp] theorem skipBytes_dsps (k : Nat) : (skipBytes k s).dsps = s.dsps := rfl
@[simp] theorem skipBytes_dcmd (k : Nat) : (skipBytes k s).dcmd = s.dcmd := rfl
@[simp] theorem skipBytes_carry (k : Nat) : (skipBytes k s).carry = s.carry := rfl
@[simp] theorem skipBytes_scratch (k : Nat) : (skipBytes k s).scratch = s.scratch := rfl
@[simp] theorem skipBytes_sfbr (k : Nat) : (skipBytes k s).sfbr = s.sfbr := rfl
@[simp] theorem skipBytes_storage (k : Nat) : (skipBytes k s).storage = s.storage := rfl
@[simp] theorem skipBytes_scntl1 (k : Nat) : (skipBytes k s).scntl1 = s.scntl1 := rfl
@[simp] theorem skipBytes_sdid (k : Nat) : (skipBytes k s).sdid = s.sdid := rfl
@[simp] theorem skipBytes_socl (k : Nat) : (skipBytes k s).socl = s.socl := rfl
@[simp] theorem skipBytes_phase (k : Nat) : (skipBytes k s).phase = s.phase := rfl
@[simp] theorem skipBytes_sstat0 (k : Nat) : (skipBytes k s).sstat0 = s.sstat0 := rfl
@[simp] theorem skipBytes_sidl (k : Nat) : (skipBytes k s).sidl = s.sidl := rfl
@[simp] theorem skipBytes_sist0 (k : Nat) : (skipBytes k s).sist0 = s.sist0 := rfl
@[simp] theorem skipBytes_sist1 (k : Nat) : (skipBytes k s).sist1 = s.sist1 := rfl
@[simp] theorem skipBytes_sien0 (k : Nat) : (skipBytes k s).sien0 = s.sien0 := rfl
@[simp] theorem skipBytes_sien1 (k : Nat) : (skipBytes k s).sien1 = s.sien1 := rfl
@[simp] theorem skipBytes_dstat (k : Nat) : (skipBytes k s).dstat = s.dstat := rfl
@[simp] theorem skipBytes_dien (k : Nat) : (skipBytes k s).dien = s.dien := rfl
@[simp] theorem skipBytes_intf (k : Nat) : (skipBytes k s).intf = s.intf := rfl
@[simp] theorem skipBytes_istatHi (k : Nat) : (skipBytes k s).istatHi = s.istatHi := rfl
@[simp] theorem skipBytes_irq (k : Nat) : (skipBytes k s).irq = s.irq := rfl
@[simp] theorem skipBytes_dmode (k : Nat) : (skipBytes k s).dmode = s.dmode := rfl
@[simp] theorem skipBytes_dcntl (k : Nat) : (skipBytes k s).dcntl = s.dcntl := rfl
@[simp] theorem skipBytes_dfifo (k : Nat) : (skipBytes k s).dfifo = s.dfifo := rfl
@[simp] theorem skipBytes_ctest5 (k : Nat) : (skipBytes k s).ctest5 = s.ctest5 := rfl
@[simp] theorem skipBytes_sstop (k : Nat) : (skipBytes k s).sstop = s.sstop := rfl
@[simp] theorem skipBytes_waiting (k : Nat) : (skipBytes k s).waiting = s.waiting := rfl
@[simp] theorem skipBytes_msg (k : Nat) : (skipBytes k s).msg = s.msg := rfl
@[simp] theorem skipBytes_msgAction (k : Nat) : (skipBytes k s).msgAction = s.msgAction := rfl
@[simp] theorem skipBytes_request (k : Nat) : (skipBytes k s).request = s.request := rfl
@[simp] theorem skipBytes_status (k : Nat) : (skipBytes k s).status = s.status := rfl
@[simp] theorem skipBytes_selAtn (k : Nat) : (skipBytes k s).selAtn = s.selAtn := rfl
@[simp] theorem skipBytes_currentLun (k : Nat) : (skipBytes k s).currentLun = s.currentLun := rfl
@[simp] theorem skipBytes_selectTag (k : Nat) : (skipBytes k s).selectTag = s.selectTag := rfl
@[simp] theorem skipBytes_tagValid (k : Nat) : (skipBytes k s).tagValid = s.tagValid := rfl
@[simp] theorem skipBytes_icount (k : Nat) : (skipBytes k s).icount = s.icount := rfl
@[simp] theorem skipBytes_rbc (k : Nat) : (skipBytes k s).rbc = s.rbc := rfl
@[simp] theorem skipBytes_yield (k : Nat) : (skipBytes k s).yield = s.yield := rfl
@[simp] theorem skipBytes_mem (k : Nat) : (skipBytes k s).mem = s.mem := rfl
@[simp] theorem skipBytes_params (k : Nat) : (skipBytes k s).params = s.params := rfl
@[simp] theorem skipBytes_inRun (k : Nat) : (skipBytes k s).inRun = s.inRun := rfl
@[simp] theorem skipBytes_inbox (k : Nat) : (skipBytes k s).inbox = s.inbox := rfl
@[simp] theorem skipBytes_io (k : Nat) : (skipBytes k s).io = s.io := rfl

/-! ### `blockBookkeeping` -/

@[simp] theorem blockBookkeeping_dsp : (blockBookkeeping s).dsp = s.dsp := rfl
@[simp] theorem blockBookkeeping_temp : (blockBookkeeping s).temp = s.temp := rfl
@[simp] theorem blockBookkeeping_dbc : (blockBookkeeping s).dbc = s.dbc := rfl
@[simp] theorem blockBookkeeping_dnad : (blockBookkeeping s).dnad = s.dnad := rfl
@[simp] theorem blockBookkeeping_dsa : (blockBookkeeping s).dsa = s.dsa := rfl
@[simp] theorem blockBookkeeping_dsps : (blockBookkeeping s).dsps = s.dsps := rfl
@[simp] theorem blockBookkeeping_dcmd : (blockBookkeeping s).dcmd = s.dcmd := rfl
@[simp] theorem blockBookkeeping_carry : (blockBookkeeping s).carry = s.carry := rfl
@[simp] theorem blockBookkeeping_scratch : (blockBookkeeping s).scratch = s.scratch := rfl
@[simp] theorem blockBookkeeping_sfbr : (blockBookkeeping s).sfbr = s.sfbr := rfl
@[simp] theorem blockBookkeeping_storage : (blockBookkeeping s).storage = s.storage := rfl
@[simp] theorem blockBookkeeping_scntl1 : (blockBookkeeping s).scntl1 = s.scntl1 := rfl
@[simp] theorem blockBookkeeping_sdid : (blockBookkeeping s).sdid = s.sdid := rfl
@[simp] theorem blockBookkeeping_socl : (blockBookkeeping s).socl = s.socl := rfl
@[simp] theorem blockBookkeeping_phase : (blockBookkeeping s).phase = s.phase := rfl
@[simp] theorem blockBookkeeping_sstat0 : (blockBookkeeping s).sstat0 = s.sstat0 := rfl
@[simp] theorem blockBookkeeping_sidl : (blockBookkeeping s).sidl = s.sidl := rfl
@[simp] theorem blockBookkeeping_sist0 : (blockBookkeeping s).sist0 = s.sist0 := rfl
@[simp] theorem blockBookkeeping_sist1 : (blockBookkeeping s).sist1 = s.sist1 := rfl
@[simp] theorem blockBookkeeping_sien0 : (blockBookkeeping s).sien0 = s.sien0 := rfl
@[simp] theorem blockBookkeeping_sien1 : (blockBookkeeping s).sien1 = s.sien1 := rfl
@[simp] theorem blockBookkeeping_dstat : (blockBookkeeping s).dstat = s.dstat := rfl
@[simp] theorem blockBookkeeping_dien : (blockBookkeeping s).dien = s.dien := rfl
@[simp] theorem blockBookkeeping_intf : (blockBookkeeping s).intf = s.intf := rfl
@[simp] theorem blockBookkeeping_istatHi : (blockBookkeeping s).istatHi = s.istatHi := rfl
@[simp] theorem blockBookkeeping_irq : (blockBookkeeping s).irq = s.irq := rfl
@[simp] theorem blockBookkeeping_dmode : (blockBookkeeping s).dmode = s.dmode := rfl
@[simp] theorem blockBookkeeping_dcntl : (blockBookkeeping s).dcntl = s.dcntl := rfl
@[simp] theorem blockBookkeeping_dfifo : (blockBookkeeping s).dfifo = s.dbc.extractLsb' 0 8 := rfl
@[simp] theorem blockBookkeeping_ctest5 : (blockBookkeeping s).ctest5 = s.ctest5.extractLsb' 2 6 ++ s.dbc.extractLsb' 8 2 := rfl
@[simp] theorem blockBookkeeping_sstop : (blockBookkeeping s).sstop = s.sstop := rfl
@[simp] theorem blockBookkeeping_waiting : (blockBookkeeping s).waiting = s.waiting := rfl
@[simp] theorem blockBookkeeping_msg : (blockBookkeeping s).msg = s.msg := rfl
@[simp] theorem blockBookkeeping_msgAction : (blockBookkeeping s).msgAction = s.msgAction := rfl
@[simp] theorem blockBookkeeping_request : (blockBookkeeping s).request = s.request := rfl
@[simp] theorem blockBookkeeping_status : (blockBookkeeping s).status = s.status := rfl
@[simp] theorem blockBookkeeping_selAtn : (blockBookkeeping s).selAtn = s.selAtn := rfl
@[simp] theorem blockBookkeeping_currentLun : (blockBookkeeping s).currentLun = s.currentLun := rfl
@[simp] theorem blockBookkeeping_selectTag : (blockBookkeeping s).selectTag = s.selectTag := rfl
@[simp] theorem blockBookkeeping_tagValid : (blockBookkeeping s).tagValid = s.tagValid := rfl
@[simp] theorem blockBookkeeping_icount : (blockBookkeeping s).icount = s.icount := rfl
@[simp] theorem blockBookkeeping_rbc : (blockBookkeeping s).rbc = satSub s.rbc s.dbc := rfl
@[simp] theorem blockBookkeeping_yield : (blockBookkeeping s).yield = s.yield := rfl
@[simp] theorem blockBookkeeping_mem : (blockBookkeeping s).mem = s.mem := rfl
@[simp] theorem blockBookkeeping_params : (blockBookkeeping s).params = s.params := rfl
@[simp] theorem blockBookkeeping_inRun : (blockBookkeeping s).inRun = s.inRun := rfl
@[simp] theorem blockBookkeeping_inbox : (blockBookkeeping s).inbox = s.inbox := rfl
@[simp] theorem blockBookkeeping_io : (blockBookkeeping s).io = s.io := rfl

/-! ### `leaveRun` -/

@[simp] theorem leaveRun_dsp : (leaveRun s).dsp = s.dsp := rfl
@[simp] theorem leaveRun_temp : (leaveRun s).temp = s.temp := rfl
@[simp] theorem leaveRun_dbc : (leaveRun s).dbc = s.dbc := rfl
@[simp] theorem leaveRun_dnad : (leaveRun s).dnad = s.dnad := rfl
@[simp] theorem leaveRun_dsa : (leaveRun s).dsa = s.dsa := rfl
@[simp] theorem leaveRun_dsps : (leaveRun s).dsps = s.dsps := rfl
@[simp] theorem leaveRun_dcmd : (leaveRun s).dcmd = s.dcmd := rfl
@[simp] theorem leaveRun_carry : (leaveRun s).carry = s.carry := rfl
@[simp] theorem leaveRun_scratch : (leaveRun s).scratch = s.scratch := rfl
@[simp] theorem leaveRun_sfbr : (leaveRun s).sfbr = s.sfbr := rfl
@[simp] theorem leaveRun_storage : (leaveRun s).storage = s.storage := rfl
@[simp] theorem leaveRun_scntl1 : (leaveRun s).scntl1 = s.scntl1 := rfl
@[simp] theorem leaveRun_sdid : (leaveRun s).sdid = s.sdid := rfl
@[simp] theorem leaveRun_socl : (leaveRun s).socl = s.socl := rfl
@[simp] theorem leaveRun_phase : (leaveRun s).phase = s.phase := rfl
@[simp] theorem leaveRun_sstat0 : (leaveRun s).sstat0 = s.sstat0 := rfl
@[simp] theorem leaveRun_sidl : (leaveRun s).sidl = s.sidl := rfl
@[simp] theorem leaveRun_sist0 : (leaveRun s).sist0 = s.sist0 := rfl
@[simp] theorem leaveRun_sist1 : (leaveRun s).sist1 = s.sist1 := rfl
@[simp] theorem leaveRun_sien0 : (leaveRun s).sien0 = s.sien0 := rfl
@[simp] theorem leaveRun_sien1 : (leaveRun s).sien1 = s.sien1 := rfl
@[simp] theorem leaveRun_dstat : (leaveRun s).dstat = s.dstat := rfl
@[simp] theorem leaveRun_dien : (leaveRun s).dien = s.dien := rfl
@[simp] theorem leaveRun_intf : (leaveRun s).intf = s.intf := rfl
@[simp] theorem leaveRun_istatHi : (leaveRun s).istatHi = s.istatHi := rfl
@[simp] theorem leaveRun_irq : (leaveRun s).irq = s.irq := rfl
@[simp] theorem leaveRun_dmode : (leaveRun s).dmode = s.dmode := rfl
@[simp] theorem leaveRun_dcntl : (leaveRun s).dcntl = s.dcntl := rfl
@[simp] theorem leaveRun_dfifo : (leaveRun s).dfifo = s.dfifo := rfl
@[simp] theorem leaveRun_ctest5 : (leaveRun s).ctest5 = s.ctest5 := rfl
@[simp] theorem leaveRun_sstop : (leaveRun s).sstop = s.sstop := rfl
@[simp] theorem leaveRun_waiting : (leaveRun s).waiting = s.waiting := rfl
@[simp] theorem leaveRun_msg : (leaveRun s).msg = s.msg := rfl
@[simp] theorem leaveRun_msgAction : (leaveRun s).msgAction = s.msgAction := rfl
@[simp] theorem leaveRun_request : (leaveRun s).request = s.request := rfl
@[simp] theorem leaveRun_status : (leaveRun s).status = s.status := rfl
@[simp] theorem leaveRun_selAtn : (leaveRun s).selAtn = s.selAtn := rfl
@[simp] theorem leaveRun_currentLun : (leaveRun s).currentLun = s.currentLun := rfl
@[simp] theorem leaveRun_selectTag : (leaveRun s).selectTag = s.selectTag := rfl
@[simp] theorem leaveRun_tagValid : (leaveRun s).tagValid = s.tagValid := rfl
@[simp] theorem leaveRun_icount : (leaveRun s).icount = s.icount := rfl
@[simp] theorem leaveRun_rbc : (leaveRun s).rbc = s.rbc := rfl
@[simp] theorem leaveRun_yield : (leaveRun s).yield = s.yield := rfl
@[simp] theorem leaveRun_mem : (leaveRun s).mem = s.mem := rfl
@[simp] theorem leaveRun_params : (leaveRun s).params = s.params := rfl
@[simp] theorem leaveRun_inRun : (leaveRun s).inRun = false := rfl
@[simp] theorem leaveRun_inbox : (leaveRun s).inbox = s.inbox := rfl
@[simp] theorem leaveRun_io : (leaveRun s).io = s.io := rfl

/-! ### `enterRun` -/

@[simp] theorem enterRun_dsp : (enterRun s).dsp = s.dsp := rfl
@[simp] theorem enterRun_temp : (enterRun s).temp = s.temp := rfl
@[simp] theorem enterRun_dbc : (enterRun s).dbc = s.dbc := rfl
@[simp] theorem enterRun_dnad : (enterRun s).dnad = s.dnad := rfl
@[simp] theorem enterRun_dsa : (enterRun s).dsa = s.dsa := rfl
@[simp] theorem enterRun_dsps : (enterRun s).dsps = s.dsps := rfl
@[simp] theorem enterRun_dcmd : (enterRun s).dcmd = s.dcmd := rfl
@[simp] theorem enterRun_carry : (enterRun s).carry = s.carry := rfl
@[simp] theorem enterRun_scratch : (enterRun s).scratch = s.scratch := rfl
@[simp] theorem enterRun_sfbr : (enterRun s).sfbr = s.sfbr := rfl
@[simp] theorem enterRun_storage : (enterRun s).storage = s.storage := rfl
@[simp] theorem enterRun_scntl1 : (enterRun s).scntl1 = s.scntl1 := rfl
@[simp] theorem enterRun_sdid : (enterRun s).sdid = s.sdid := rfl
@[simp] theorem enterRun_socl : (enterRun s).socl = s.socl := rfl
@[simp] theorem enterRun_phase : (enterRun s).phase = s.phase := rfl
@[simp] theorem enterRun_sstat0 : (enterRun s).sstat0 = s.sstat0 := rfl
@[simp] theorem enterRun_sidl : (enterRun s).sidl = s.sidl := rfl
@[simp] theorem enterRun_sist0 : (enterRun s).sist0 = s.sist0 := rfl
@[simp] theorem enterRun_sist1 : (enterRun s).sist1 = s.sist1 := rfl
@[simp] theorem enterRun_sien0 : (enterRun s).sien0 = s.sien0 := rfl
@[simp] theorem enterRun_sien1 : (enterRun s).sien1 = s.sien1 := rfl
@[simp] theorem enterRun_dstat : (enterRun s).dstat = s.dstat := rfl
@[simp] theorem enterRun_dien : (enterRun s).dien = s.dien := rfl
@[simp] theorem enterRun_intf : (enterRun s).intf = s.intf := rfl
@[simp] theorem enterRun_istatHi : (enterRun s).istatHi = s.istatHi := rfl
@[simp] theorem enterRun_irq : (enterRun s).irq = s.irq := rfl
@[simp] theorem enterRun_dmode : (enterRun s).dmode = s.dmode := rfl
@[simp] theorem enterRun_dcntl : (enterRun s).dcntl = s.dcntl := rfl
@[simp] theorem enterRun_dfifo : (enterRun s).dfifo = s.dfifo := rfl
@[simp] theorem enterRun_ctest5 : (enterRun s).ctest5 = s.ctest5 := rfl
@[simp] theorem enterRun_sstop : (enterRun s).sstop = s.sstop := rfl
@[simp] theorem enterRun_waiting : (enterRun s).waiting = s.waiting := rfl
@[simp] theorem enterRun_msg : (enterRun s).msg = s.msg := rfl
@[simp] theorem enterRun_msgAction : (enterRun s).msgAction = s.msgAction := rfl
@[simp] theorem enterRun_request : (enterRun s).request = s.request := rfl
@[simp] theorem enterRun_status : (enterRun s).status = s.status := rfl
@[simp] theorem enterRun_selAtn : (enterRun s).selAtn = s.selAtn := rfl
@[simp] theorem enterRun_currentLun : (enterRun s).currentLun = s.currentLun := rfl
@[simp] theorem enterRun_selectTag : (enterRun s).selectTag = s.selectTag := rfl
@[simp] theorem enterRun_tagValid : (enterRun s).tagValid = s.tagValid := rfl
@[simp] theorem enterRun_icount : (enterRun s).icount = 0 := rfl
@[simp] theorem enterRun_rbc : (enterRun s).rbc = s.rbc := rfl
@[simp] theorem enterRun_yield : (enterRun s).yield = false := rfl
@[simp] theorem enterRun_mem : (enterRun s).mem = s.mem := rfl
@[simp] theorem enterRun_params : (enterRun s).params = s.params := rfl
@[simp] theorem enterRun_inRun : (enterRun s).inRun = true := rfl
@[simp] theorem enterRun_inbox : (enterRun s).inbox = s.inbox := rfl
@[simp] theorem enterRun_io : (enterRun s).io = s.io := rfl

end Sys2Proof.Machine
end

