-- ==== Sys2Proof/Laws/Ops.lean ====
section
/-! SUPPORT. What each shared operation of Machine/Ops.lean can do, said once: taking an exception, the calls on
the outside world, the DMA Transfer Unit, reset. -/

namespace Sys2Proof.Machine

variable (s : State)

/-! ### Causes -/

@[simp] theorem raise_ma : raise .ma s = raiseScsi 0x80#8 0#3 s := rfl
@[simp] theorem raise_udc : raise .udc s = raiseScsi 0x04#8 0#3 s := rfl
@[simp] theorem raise_rst : raise .rst s = raiseScsi 0x02#8 0#3 s := rfl
@[simp] theorem raise_sto : raise .sto s = raiseScsi 0#8 4#3 s := rfl
@[simp] theorem raise_abrt : raise .abrt s = raiseDma 0x10#8 s := rfl
@[simp] theorem raise_ssi : raise .ssi s = raiseDma 0x08#8 s := rfl
@[simp] theorem raise_sir : raise .sir s = raiseDma 0x04#8 s := rfl
@[simp] theorem raise_iid : raise .iid s = raiseDma 0x01#8 s := rfl

/-- Taking an exception changes causes, the line and `sstop` only. -/
theorem raise_frame (c : Cause) :
    raise c s = { s with
      sist0 := (raise c s).sist0, sist1 := (raise c s).sist1, dstat := (raise c s).dstat
      sstop := (raise c s).sstop, irq := (raise c s).irq } := by
  cases c <;> rfl

/-- Every cause but a selection timeout stops the interpreter. -/
theorem raise_sstop (c : Cause) (h : c ≠ .sto) : (raise c s).sstop = true := by
  have mem (a b : Byte) (hb : b ≠ 0#8) : a ||| b ≠ 0#8 := fun he =>
    hb (BitVec.or_eq_zero_iff.1 he).2
  cases c <;> simp_all

/-- The recomputed line is the expression over the causes. -/
@[simp] theorem irqValue_updateIrq : irqValue (updateIrq s) = irqValue s := rfl

/-- After a cause the line is the expression over the causes. -/
theorem raise_irq (c : Cause) : (raise c s).irq = irqValue (raise c s) := by
  cases c <;> rfl

/-! ### The outside world: only `io` changes -/

theorem askPresent_frame (id : TargetId) :
    (askPresent id s).2 = { s with io := (askPresent id s).2.io } := rfl

theorem askCommand_frame (id : TargetId) (cdb : List Byte) :
    (askCommand id cdb s).2 = { s with io := (askCommand id cdb s).2.io } := rfl

theorem askStatus_frame (id : TargetId) :
    (askStatus id s).2 = { s with io := (askStatus id s).2.io } := rfl

theorem portBytes_frame (addr : Word) (n : Nat) :
    (portBytes addr n s).2 = { s with io := (portBytes addr n s).2.io } := by
  induction n generalizing s addr with
  | zero => rfl
  | succ n ih => exact ih (portRead (portOf addr) s).2 (addr + 1#32)

@[simp] theorem portBytes_length (addr : Word) (n : Nat) : (portBytes addr n s).1.length = n := by
  induction n generalizing s addr with
  | zero => rfl
  | succ n ih => simpa [portBytes] using ih (portRead (portOf addr) s).2 (addr + 1#32)

theorem portStore_frame (addr : Word) (bs : List Byte) :
    portStore addr bs s = { s with io := (portStore addr bs s).io } := by
  induction bs generalizing s addr with
  | nil => rfl
  | cons b rest ih => exact ih (portWrite (portOf addr) b s) (addr + 1#32)

/-! ### The DMA Transfer Unit -/

/-- A DMA read returns exactly the count and changes nothing but `io`. -/
theorem dmaRead_spec (addr : Word) (n : Nat) :
    (dmaRead addr n s).1.length = n ∧ (dmaRead addr n s).2 = { s with io := (dmaRead addr n s).2.io } := by
  unfold dmaRead
  split
  · exact ⟨portBytes_length s addr n, portBytes_frame s addr n⟩
  · exact ⟨Memory.bytes_length .., rfl⟩

/-- A DMA write is a memory write or a run of port writes. -/
theorem dmaWrite_cases (addr : Word) (bs : List Byte) :
    (s.dmode.getLsbD 4 = false ∧ dmaWrite addr bs s = memWrite addr bs s) ∨
    (s.dmode.getLsbD 4 = true ∧ dmaWrite addr bs s = { s with io := (portStore addr bs s).io }) := by
  unfold dmaWrite diom
  cases h : s.dmode.getLsbD 4
  · exact .inl ⟨rfl, rfl⟩
  · exact .inr ⟨rfl, portStore_frame s addr bs⟩

/-- A DMA write changes guest memory and the outside world only. -/
theorem dmaWrite_frame (addr : Word) (bs : List Byte) :
    dmaWrite addr bs s = { s with mem := (dmaWrite addr bs s).mem, io := (dmaWrite addr bs s).io } := by
  rcases dmaWrite_cases s addr bs with ⟨_, e⟩ | ⟨_, e⟩
  · rw [e]
    rfl
  · rw [e]

/-- The outside world after a run of port writes depends on the outside world before it only. -/
theorem portStore_io_congr {t : State} (addr : Word) (bs : List Byte) (h : s.io = t.io) :
    (portStore addr bs s).io = (portStore addr bs t).io := by
  induction bs generalizing addr s t with
  | nil => exact h
  | cons b rest ih => exact ih _ _ (by simp [portWrite, h])

/-- What a DMA write does to memory and the outside world depends on these two and the mode bits only. -/
theorem dmaWrite_congr {t : State} (addr : Word) (bs : List Byte) (hm : s.mem = t.mem) (hd : s.dmode = t.dmode)
    (hi : s.io = t.io) :
    (dmaWrite addr bs s).mem = (dmaWrite addr bs t).mem ∧ (dmaWrite addr bs s).io = (dmaWrite addr bs t).io := by
  unfold dmaWrite diom
  rw [hd]
  split
  · rw [portStore_frame, portStore_frame t]
    exact ⟨hm, portStore_io_congr s addr bs hi⟩
  · exact ⟨by simp [hm], by simp [hi]⟩

/-! ### Reset -/

/-- What reset keeps: guest memory, the chip's parameters, the outside world, the place in the run loop. -/
theorem resetCore_keeps :
    (resetCore s).mem = s.mem ∧ (resetCore s).params = s.params ∧ (resetCore s).inRun = s.inRun ∧
    (resetCore s).inbox = s.inbox ∧ (resetCore s).io = s.io := ⟨rfl, rfl, rfl, rfl, rfl⟩

end Sys2Proof.Machine
end

