-- ==== Sys2Proof/Laws/Bank.lean ====
section
/-! SUPPORT. The register bank: lanes read and written, what a read and a write can change, runs of reads and
writes one offset at a time. -/

namespace Sys2Proof.Machine

/-! ### Lanes -/

/-- Bit `i` of the ones of lane `k`. -/
theorem getLsbD_laneMask (n k i : Nat) (hn : 8 * k + 8 ≤ n) :
    ((0xFF#8).setWidth n <<< (8 * k)).getLsbD i = decide (8 * k ≤ i ∧ i < 8 * k + 8) := by
  have ones (j : Nat) : (0xFF#8).getLsbD j = decide (j < 8) := by
    by_cases hj : j < 8
    · interval_cases j <;> rfl
    · rw [BitVec.getLsbD_of_ge _ _ (by omega), decide_eq_false hj]
  rw [BitVec.getLsbD_shiftLeft, BitVec.getLsbD_setWidth, ones]
  by_cases h1 : i < 8 * k
  · simp [h1]
  · by_cases h2 : i < 8 * k + 8
    · simp [h1, show i < n by omega, show i - 8 * k < n by omega, show i - 8 * k < 8 by omega, h2]
      omega
    · simp [show ¬ i - 8 * k < 8 by omega, h2]

/-- A lane write puts the byte in its lane and keeps every other bit. -/
theorem getLsbD_setLane {n : Nat} (v : BitVec n) (k : Nat) (b : Byte) (hn : 8 * k + 8 ≤ n) (i : Nat) :
    (setLane v k b).getLsbD i =
      if 8 * k ≤ i ∧ i < 8 * k + 8 then b.getLsbD (i - 8 * k) else v.getLsbD i := by
  unfold setLane
  rw [BitVec.getLsbD_or, BitVec.getLsbD_and, BitVec.getLsbD_not, getLsbD_laneMask n k i hn,
    BitVec.getLsbD_shiftLeft, BitVec.getLsbD_setWidth]
  by_cases hi : i < n
  · by_cases h1 : 8 * k ≤ i ∧ i < 8 * k + 8
    · simp [h1, hi, show ¬ i < 8 * k by omega, show i - 8 * k < n by omega]
    · have h2 : i < 8 * k ∨ ¬ i - 8 * k < 8 := by omega
      rcases h2 with h2 | h2
      · simp [h1, hi, h2]
      · simp [h1, hi, BitVec.getLsbD_of_ge b (i - 8 * k) (by omega)]
  · simp [hi, show ¬ (8 * k ≤ i ∧ i < 8 * k + 8) by omega, BitVec.getLsbD_of_ge v i (by omega)]

theorem getLsbD_lane {n : Nat} (v : BitVec n) (k i : Nat) :
    (lane v k).getLsbD i = (decide (i < 8) && v.getLsbD (8 * k + i)) := by
  simp [lane]

/-- The written lane reads as the byte written. -/
@[simp] theorem lane_setLane_same {n : Nat} (v : BitVec n) (k : Nat) (b : Byte) (hn : 8 * k + 8 ≤ n) :
    lane (setLane v k b) k = b := by
  apply BitVec.eq_of_getLsbD_eq
  intro i hi
  rw [getLsbD_lane, getLsbD_setLane v k b hn]
  simp [hi]

/-- Every other lane keeps its byte. -/
theorem lane_setLane_ne {n : Nat} (v : BitVec n) {k j : Nat} (b : Byte) (hn : 8 * k + 8 ≤ n) (h : j ≠ k) :
    lane (setLane v k b) j = lane v j := by
  apply BitVec.eq_of_getLsbD_eq
  intro i hi
  rw [getLsbD_lane, getLsbD_lane, getLsbD_setLane v k b hn,
    if_neg (show ¬ (8 * k ≤ 8 * j + i ∧ 8 * j + i < 8 * k + 8) by omega)]

/-- Writing back what a lane holds changes nothing. -/
@[simp] theorem setLane_lane {n : Nat} (v : BitVec n) (k : Nat) (hn : 8 * k + 8 ≤ n) :
    setLane v k (lane v k) = v := by
  apply BitVec.eq_of_getLsbD_eq
  intro i hi
  rw [getLsbD_setLane v k _ hn]
  split
  · rw [getLsbD_lane, show 8 * k + (i - 8 * k) = i by omega]
    simp [show i - 8 * k < 8 by omega]
  · rfl

/-! ### Reads -/

/-- A read changes causes and SIGP at most, and then the line. -/
theorem regReadEffect_frame (r : BankReg) (s : State) :
    regReadEffect r s = { s with
      dstat := (regReadEffect r s).dstat, sist0 := (regReadEffect r s).sist0
      sist1 := (regReadEffect r s).sist1, istatHi := (regReadEffect r s).istatHi
      irq := (regReadEffect r s).irq } := by
  cases r <;> rfl

/-- Only four registers have a read effect. -/
theorem regReadEffect_eq_self {r : BankReg} (s : State) (h1 : r ≠ .dstat) (h2 : r ≠ .sist0)
    (h3 : r ≠ .sist1) (h4 : r ≠ .ctest2) : regReadEffect r s = s := by
  cases r <;> first | rfl | contradiction

@[simp] theorem regReads_zero (off : Byte) (s : State) : regReads off 0 s = ([], s) := rfl

theorem regReads_succ (off : Byte) (n : Nat) (s : State) :
    regReads off (n + 1) s =
      (regValue (regAt off) s :: (regReads (off + 1#8) n (regReadEffect (regAt off) s)).1,
        (regReads (off + 1#8) n (regReadEffect (regAt off) s)).2) := rfl

@[simp] theorem regReads_length (off : Byte) (n : Nat) (s : State) : (regReads off n s).1.length = n := by
  induction n generalizing off s with
  | zero => rfl
  | succ n ih => simp [regReads_succ, ih]

/-! ### Writes -/

@[simp] theorem regWrites_nil (off : Byte) (s : State) : regWrites off [] s = s := rfl

theorem regWrites_cons (off b : Byte) (bs : List Byte) (s : State) :
    regWrites off (b :: bs) s = regWrites (off + 1#8) bs (regWrite off b s) := rfl

/-- A write to a register other than ISTAT leaves all that is not in the bank, and every cause but those of
SIST0. -/
theorem regWriteAt_frame (r : BankReg) (b : Byte) (s : State) (h : r ≠ .istat) :
    (regWriteAt r b s).carry = s.carry ∧ (regWriteAt r b s).phase = s.phase ∧
    (regWriteAt r b s).waiting = s.waiting ∧ (regWriteAt r b s).msg = s.msg ∧
    (regWriteAt r b s).msgAction = s.msgAction ∧ (regWriteAt r b s).request = s.request ∧
    (regWriteAt r b s).status = s.status ∧ (regWriteAt r b s).selAtn = s.selAtn ∧
    (regWriteAt r b s).currentLun = s.currentLun ∧ (regWriteAt r b s).selectTag = s.selectTag ∧
    (regWriteAt r b s).tagValid = s.tagValid ∧ (regWriteAt r b s).icount = s.icount ∧
    (regWriteAt r b s).rbc = s.rbc ∧ (regWriteAt r b s).yield = s.yield ∧
    (regWriteAt r b s).mem = s.mem ∧ (regWriteAt r b s).params = s.params ∧
    (regWriteAt r b s).io = s.io ∧ (regWriteAt r b s).inRun = s.inRun ∧
    (regWriteAt r b s).inbox = s.inbox ∧ (regWriteAt r b s).dstat = s.dstat ∧
    (regWriteAt r b s).sist1 = s.sist1 ∧ (regWriteAt r b s).intf = s.intf ∧
    (regWriteAt r b s).istatHi = s.istatHi := by
  cases r
  case istat => exact absurd rfl h
  case scntl1 =>
    unfold regWriteAt writeScntl1
    dsimp only
    split_ifs <;> simp
  case dsp k =>
    unfold regWriteAt writeDsp
    dsimp only
    split_ifs <;> simp
  case dcntl =>
    unfold regWriteAt writeDcntl
    dsimp only
    split_ifs <;> simp
  all_goals refine ⟨?_, ?_, ?_, ?_, ?_, ?_, ?_, ?_, ?_, ?_, ?_, ?_, ?_, ?_, ?_, ?_, ?_, ?_, ?_, ?_, ?_, ?_, ?_⟩ <;> rfl

end Sys2Proof.Machine
end

