-- ==== Sys2Proof/Laws/Claims.lean ====
section
/-! SUPPORT. The words of the statements are those of the machine: each definition that the statements write
from a rule equals the machine's own, so that a proof passes from one to the other by one rewrite. -/

namespace Sys2Proof.Claims

open Sys2Proof.Machine

/-! ### The line and the causes -/

theorem line_eq (s : State) : line s = irqValue s := by
  unfold line irqValue
  rw [Bool.eq_iff_iff]
  simp [or_assoc]

theorem lined_eq (s : State) : lined s = updateIrq s := by
  unfold lined updateIrq
  rw [line_eq]

theorem stoPending_iff (s : State) : StoPending s ↔ stoLatched s = true := Iff.rfl

/-! ### Addresses and tests -/

theorem getLsbD_ff000000 (i : Nat) (h : i < 32) : (0xFF000000#32).getLsbD i = decide (24 ≤ i) := by
  have : ∀ i : Fin 32, (0xFF000000#32).getLsbD i = decide (24 ≤ i.val) := by decide
  exact this ⟨i, h⟩

theorem sext_eq (v : Word24) : sext v = sext24 v := by
  have e : v.setWidth 32 + 0xFF000000#32 = v.setWidth 32 ||| 0xFF000000#32 := by
    apply BitVec.add_eq_or_of_and_eq_zero
    apply BitVec.eq_of_getLsbD_eq
    intro i hi
    rw [BitVec.getLsbD_and, getLsbD_ff000000 i hi, BitVec.getLsbD_setWidth]
    by_cases h : 24 ≤ i
    · simp [BitVec.getLsbD_of_ge v i h]
    · simp [h]
  unfold sext sext24
  rw [e]
  apply BitVec.eq_of_getLsbD_eq
  intro i hi
  rw [BitVec.getLsbD_signExtend, BitVec.msb_eq_getLsbD_last]
  split <;> rename_i h
  · rw [BitVec.getLsbD_or, getLsbD_ff000000 i hi, BitVec.getLsbD_setWidth]
    by_cases h2 : i < 24
    · simp [h2, hi]
    · simp [h2, hi, h, show 24 ≤ i by omega]
  · rw [BitVec.getLsbD_setWidth]
    by_cases h2 : i < 24
    · simp [h2, hi]
    · simpa [h2, hi, BitVec.getLsbD_of_ge v i (by omega)] using h

theorem address_eq (t : Target) (s : State) : address t s = targetAddr t s := by
  cases t <;> simp [address, targetAddr, sext_eq]

theorem dataAddress_eq (a : LsAddr) (s : State) : dataAddress a s = lsAddr a s := by
  cases a <;> simp [dataAddress, lsAddr, dsaAddr, sext_eq]

theorem wordOfBytes_eq_or (a b c d : Byte) : wordOfBytes a b c d =
    a.setWidth 32 ||| b.setWidth 32 <<< 8 ||| c.setWidth 32 <<< 16 ||| d.setWidth 32 <<< 24 := by
  unfold wordOfBytes
  apply BitVec.eq_of_getLsbD_eq
  intro i hi
  simp only [BitVec.getLsbD_append, BitVec.getLsbD_or, BitVec.getLsbD_shiftLeft, BitVec.getLsbD_setWidth]
  rcases (by omega : i < 8 ∨ (8 ≤ i ∧ i < 16) ∨ (16 ≤ i ∧ i < 24) ∨ 24 ≤ i) with h | h | h | h
  · simp [h, hi, show i < 16 by omega, show i < 24 by omega]
  · simp [h, hi, show ¬ i < 8 by omega, show i - 8 < 8 by omega, show i < 24 by omega, show i - 8 < 32 by
      omega]
  · simp [h, hi, show ¬ i < 8 by omega, show ¬ i < 16 by omega, show ¬ i - 8 < 8 by omega, show i - 8 - 8 =
      i - 16 by omega, show i - 8 < 32 by omega, show i - 16 < 8 by omega, show i - 16 < 32 by omega,
      BitVec.getLsbD_of_ge a i (by omega), BitVec.getLsbD_of_ge b (i - 8) (by omega)]
  · simp [hi, show ¬ i < 8 by omega, show ¬ i < 16 by omega, show ¬ i < 24 by omega, show ¬ i - 8 < 8 by
      omega, show i - 8 - 8 = i - 16 by omega, show i - 16 - 8 = i -24 by omega, show i - 8 < 32 by omega,
      show ¬ i - 16 < 8 by omega, show i - 16 < 32 by omega, BitVec.getLsbD_of_ge a i (by omega),
      BitVec.getLsbD_of_ge b (i - 8) (by omega), BitVec.getLsbD_of_ge c (i - 16) (by omega), show i - 24 <
      32 by omega]

theorem wordAt_eq (s : State) (a : Word) : wordAt s a = s.mem.word a := by
  unfold wordAt Memory.word
  rw [wordOfBytes_eq_or]

theorem selectedId_eq (src : IdSource) (s : State) : selectedId src s = selectId src s := by
  cases src
  · rfl
  · simp only [selectedId, selectId, idOfWord, dsaAddr, wordAt_eq, sext_eq]

theorem testsAgree_iff (c : Cond) (s : State) : TestsAgree c s ↔ taken c s = true := by
  obtain ⟨ct, jt, cd, cp, ph, m, d⟩ := c
  unfold TestsAgree taken phaseTest dataTest
  cases ct <;> cases cd <;> cases cp <;> cases jt <;> simp [and_assoc]

/-! ### The register ALU -/

theorem shiftLeft_eq : ∀ (a : Byte) (c : Bool), shiftLeft a c = (a <<< 1 ||| bit c, a.getLsbD 7) := by decide

theorem shiftRight_eq : ∀ (a : Byte) (c : Bool), shiftRight a c = (a >>> 1 ||| bit c <<< 7, a.getLsbD 0) := by
  decide

theorem addBytes_eq (a b : Byte) (c : Bool) :
    addBytes a b c = (a + b + bit c, decide (255 < a.toNat + b.toNat + (bit c).toNat)) := by
  cases c <;> simp [addBytes, carryNat, BitVec.ofNat_add, bit]

/-! ### Block Moves -/

/-- A Block Move of any form is the common template at its count and address. -/
theorem exec_blockMove {i : Instr} {s : State} {ph : BitVec 3} {count : Word24} {addr : Word}
    (h : BlockMove s i ph count addr) : exec i s = .next (blockMove ph count addr s) := by
  cases h with
  | direct => rfl
  | indirect =>
    show Host.Outcome.next _ = _
    rw [wordAt_eq]
  | table _ off =>
    show Host.Outcome.next _ = _
    rw [wordAt_eq, wordAt_eq, sext_eq]
    rfl

/-- Past the delayed stop and the phase check a Block Move is its handler and the bookkeeping. -/
theorem exec_blockMove_of_phase {i : Instr} {s : State} {ph : BitVec 3} {count : Word24} {addr : Word}
    (h : BlockMove s i ph count addr) (hs : ¬StoPending s) (hp : s.phase.code = ph) :
    exec i s =
      .next (blockBookkeeping (runHandler { s with dbc := count, rbc := count, dnad := addr })) := by
  rw [exec_blockMove h, blockMove, if_neg (by exact hs), checkedTransfer, if_pos (by exact hp)]
  rfl

theorem getLsbD_three : ∀ k : Fin 8, (3#8).getLsbD k.val = decide (k.val < 2) := by decide

theorem ctest5_eq : ∀ (c : Byte) (d : BitVec 2),
    c.extractLsb' 2 6 ++ d = ((c &&& 0xFC#8) ||| d.setWidth 8 : Byte) := by decide

/-- The bookkeeping is the one of the statements, where `rbc` still holds the count. -/
theorem blockBookkeeping_eq (count : Word24) (t : State) (h : t.rbc = count) :
    blockBookkeeping t = booked count t := by
  unfold blockBookkeeping booked
  have h1 : t.dbc.extractLsb' 0 8 = t.dbc.setWidth 8 := by
    apply BitVec.eq_of_getLsbD_eq
    intro i hi
    simp [hi]
  have h2 : t.ctest5.extractLsb' 2 6 ++ t.dbc.extractLsb' 8 2 =
      ((t.ctest5 &&& 0xFC#8) ||| ((t.dbc >>> 8).setWidth 8 &&& 0x03#8) : Byte) := by
    rw [ctest5_eq]
    congr 1
    apply BitVec.eq_of_getLsbD_eq
    intro i hi
    simp only [BitVec.getLsbD_setWidth, BitVec.getLsbD_extractLsb', BitVec.getLsbD_and,
      BitVec.getLsbD_ushiftRight, hi, decide_true, Bool.true_and]
    rw [getLsbD_three ⟨i, hi⟩, Bool.and_comm]
  have h3 : satSub t.rbc t.dbc = BitVec.ofNat 24 (count.toNat - t.dbc.toNat) := by
    unfold satSub
    rw [h]
    split <;> rename_i h4
    · apply BitVec.eq_of_toNat_eq
      have := count.isLt
      rw [BitVec.toNat_sub_of_le h4, BitVec.toNat_ofNat, Nat.mod_eq_of_lt (by omega)]
    · have : count.toNat - t.dbc.toNat = 0 := by
        rw [BitVec.le_def] at h4
        omega
      rw [this]
  rw [h1, h2, h3]

/-- The bookkeeping of the statements does not look at `rbc`. -/
theorem booked_rbc (count r : Word24) (t : State) : booked count { t with rbc := r } = booked count t := rfl

end Sys2Proof.Claims
end

