-- ==== Sys2Proof/Laws/Decode.lean ====
section
/-! SUPPORT. Decoding: words and their bytes, and the fields of a word written as a top byte and 24 low bits. -/

namespace Sys2Proof

/-! ### Words and bytes -/

@[simp] theorem wordOfBytes_bytesOfWord (w : Word) :
    wordOfBytes (field w 0 8) (field w 8 8) (field w 16 8) (field w 24 8) = w := by
  unfold wordOfBytes field
  apply BitVec.eq_of_getLsbD_eq
  intro i hi
  simp only [BitVec.getLsbD_append, BitVec.getLsbD_extractLsb']
  rcases (by omega : i < 8 ∨ (8 ≤ i ∧ i < 16) ∨ (16 ≤ i ∧ i < 24) ∨ 24 ≤ i) with h | h | h | h
  · simp [h]
  · simp [show ¬ i < 8 by omega, show i - 8 < 8 by omega, show 8 + (i - 8) = i by omega]
  · simp [show ¬ i < 8 by omega, show ¬ i - 8 < 8 by omega, show i - 8 - 8 < 8 by omega,
      show 16 + (i - 8 - 8) = i by omega]
  · simp [show ¬ i < 8 by omega, show ¬ i - 8 < 8 by omega, show ¬ i - 8 - 8 < 8 by omega,
      show i - 8 - 8 - 8 < 8 by omega, show 24 + (i - 8 - 8 - 8) = i by omega]

/-- The bytes of a word are read back as the word, with what follows. -/
@[simp] theorem takeWord_bytesOfWord (w : Word) (rest : List Byte) :
    takeWord (bytesOfWord w ++ rest) = some (w, rest) := by
  simp [bytesOfWord, takeWord]

/-- The bytes of one, two and three words decode by their words. -/
theorem decode_one (w0 : Word) (rest : List Byte) (h : instrBytes w0 = 4) :
    decode ([w0].flatMap bytesOfWord ++ rest) = .ok (decodeWords w0 0#32 0#32, rest) := by
  simp [decode, h]

theorem decode_two (w0 w1 : Word) (rest : List Byte) (h : instrBytes w0 = 8) :
    decode ([w0, w1].flatMap bytesOfWord ++ rest) = .ok (decodeWords w0 w1 0#32, rest) := by
  simp [decode, h, List.append_assoc]

theorem decode_three (w0 w1 w2 : Word) (rest : List Byte) (h : instrBytes w0 = 12) :
    decode ([w0, w1, w2].flatMap bytesOfWord ++ rest) = .ok (decodeWords w0 w1 w2, rest) := by
  simp [decode, h, List.append_assoc]

/-! ### Fields of a word in two parts -/

theorem getLsbD_firstWord (top : Byte) (low : Word24) (i : Nat) :
    (firstWord top low).getLsbD i = if i < 24 then low.getLsbD i else top.getLsbD (i - 24) :=
  BitVec.getLsbD_append

/-- A field in the low 24 bits. -/
theorem field_firstWord_low (top : Byte) (low : Word24) (lo len : Nat) (h : lo + len ≤ 24) :
    field (firstWord top low) lo len = low.extractLsb' lo len := by
  apply BitVec.eq_of_getLsbD_eq
  intro i hi
  rw [field, BitVec.getLsbD_extractLsb', getLsbD_firstWord, if_pos (by omega), BitVec.getLsbD_extractLsb']

/-- A field in the top byte. -/
theorem field_firstWord_top (top : Byte) (low : Word24) (k len : Nat) :
    field (firstWord top low) (24 + k) len = top.extractLsb' k len := by
  apply BitVec.eq_of_getLsbD_eq
  intro i hi
  rw [field, BitVec.getLsbD_extractLsb', getLsbD_firstWord, if_neg (by omega), BitVec.getLsbD_extractLsb',
    show 24 + k + i - 24 = k + i by omega]

/-- A bit of the low 24 bits. -/
theorem bitAt_firstWord_low (top : Byte) (low : Word24) (i : Nat) (h : i < 24) :
    bitAt (firstWord top low) i = low.getLsbD i := by
  rw [bitAt, getLsbD_firstWord, if_pos h]

/-- A bit of the top byte. -/
theorem bitAt_firstWord_top (top : Byte) (low : Word24) (k : Nat) :
    bitAt (firstWord top low) (24 + k) = top.getLsbD k := by
  rw [bitAt, getLsbD_firstWord, if_neg (by omega), Nat.add_sub_cancel_left]

/-- A word in two parts is zero when both are. -/
theorem firstWord_eq_zero (top : Byte) (low : Word24) :
    firstWord top low = 0#32 ↔ top = 0#8 ∧ low = 0#24 := by
  constructor
  · intro h
    have h1 := congrArg (fun w : Word => field w (24 + 0) 8) h
    have h2 := congrArg (fun w : Word => field w 0 24) h
    simp only [field_firstWord_top, field_firstWord_low top low 0 24 (by omega)] at h1 h2
    exact ⟨by simpa [field] using h1, by simpa [field] using h2⟩
  · rintro ⟨rfl, rfl⟩
    rfl

/-- Words that agree under a mask agree on a field that the mask covers. -/
theorem field_eq_of_mask {v w m : Word} (h : v &&& m = w &&& m) (lo len : Nat)
    (hm : field m lo len = BitVec.allOnes len) : field v lo len = field w lo len := by
  have e := congrArg (fun x : Word => field x lo len) h
  simp only [field, BitVec.extractLsb'_and] at e hm
  simpa [field, hm] using e

/-- Words that agree under a mask agree on a bit of the mask. -/
theorem bitAt_eq_of_mask {v w m : Word} (h : v &&& m = w &&& m) (i : Nat) (hm : bitAt m i = true) :
    bitAt v i = bitAt w i := by
  have e := congrArg (fun x : Word => bitAt x i) h
  simp only [bitAt, BitVec.getLsbD_and] at e hm
  simpa [bitAt, hm] using e

end Sys2Proof
end

