-- ==== Sys2Proof/Laws/Evolves.lean ====
section
/-! SUPPORT. What an instruction or an event can do to the state, said once: `Evolves s t` says that `t` comes
from `s` by the updates listed here, and `exec_evolves` that every instruction is such a chain. An invariant is
then one induction over the list. Fields that no update names (`SameTracked` leaves them out) may change freely. -/

namespace Sys2Proof.Machine

/-- The states agree on the fields that `Evolves` follows. -/
structure SameTracked (t u : State) : Prop where
  scntl1 : u.scntl1 = t.scntl1
  scntl2 : u.storage.scntl2 = t.storage.scntl2
  sstat0 : u.sstat0 = t.sstat0
  phase : u.phase = t.phase
  sist0 : u.sist0 = t.sist0
  sist1 : u.sist1 = t.sist1
  sien0 : u.sien0 = t.sien0
  sien1 : u.sien1 = t.sien1
  dstat : u.dstat = t.dstat
  dien : u.dien = t.dien
  intf : u.intf = t.intf
  irq : u.irq = t.irq
  dcntl : u.dcntl = t.dcntl
  sstop : u.sstop = t.sstop
  waiting : u.waiting = t.waiting
  msg : u.msg = t.msg
  msgAction : u.msgAction = t.msgAction
  request : u.request = t.request
  icount : u.icount = t.icount
  mem : u.mem = t.mem
  params : u.params = t.params
  inRun : u.inRun = t.inRun
  inbox : u.inbox = t.inbox

/-- `t` comes from `s` by a chain of the updates of this core. -/
inductive Evolves (s : State) : State → Prop where
  | same : Evolves s s
  | quiet {t : State} (u : State) (h : Evolves s t) (q : SameTracked t u) : Evolves s u
  | memory {t : State} (addr : Word) (bs : List Byte) (h : Evolves s t) : Evolves s (memWrite addr bs t)
  | cause {t : State} (c : Cause) (h : Evolves s t) : Evolves s (raise c t)
  | enables {t : State} (a : Byte) (b : BitVec 3) (c : BitVec 7)
      (hc : t.dien &&& 0x02#7 = 0#7 → c &&& 0x02#7 = 0#7) (h : Evolves s t) :
      Evolves s (updateIrq { t with sien0 := a, sien1 := b, dien := c })
  | flag {t : State} (f : Bool) (h : Evolves s t) : Evolves s (updateIrq { t with intf := f })
  | clearDstat {t : State} (h : Evolves s t) : Evolves s (updateIrq { t with dstat := 0#7 })
  | clearSist0 {t : State} (h : Evolves s t) : Evolves s (updateIrq { t with sist0 := 0#8 })
  | clearSist1 {t : State} (h : Evolves s t) : Evolves s (updateIrq { t with sist1 := 0#3 })
  | toPhase {t : State} (p : Phase) (h1 : p ≠ .dataOut) (h2 : p ≠ .dataIn) (h : Evolves s t) :
      Evolves s (setPhase p t)
  | actOut {t : State} (ha : t.msgAction = .dataOut) (h : Evolves s t) : Evolves s (setPhase .dataOut t)
  | actIn {t : State} (ha : t.msgAction = .dataIn) (h : Evolves s t) : Evolves s (setPhase .dataIn t)
  | leaveBus {t : State} (h : Evolves s t) : Evolves s (disconnect t)
  | requestOut {t : State} (r : Request) (hd : r.dir = .output) (hp : r.pos ≤ r.dmaLen) (h : Evolves s t) :
      Evolves s (setPhase .dataOut { t with request := some r })
  | requestIn {t : State} (r : Request) (hd : r.dir = .input) (hp : r.pos ≤ r.dmaLen) (h : Evolves s t) :
      Evolves s (setPhase .dataIn { t with request := some r })
  | dropRequest {t : State} (h : Evolves s t) : Evolves s { t with request := none }
  | advance {t : State} (r r' : Request) (hr : t.request = some r) (hd : r'.dir = r.dir)
      (hp : r.pos ≤ r.dmaLen → r'.pos ≤ r'.dmaLen) (h : Evolves s t) :
      Evolves s { t with request := some r' }
  | queue {t : State} (b : Byte) (h : Evolves s t) : Evolves s (addMsgByte b t)
  | drain {t : State} (n : Nat) (h : Evolves s t) : Evolves s { t with msg := t.msg.drop n }
  | action {t : State} (a : MsgAction) (ha : a = .command ∨ a = .disconnect) (h : Evolves s t) :
      Evolves s { t with msgAction := a }
  | wait {t : State} (w : Waiting) (h : Evolves s t) : Evolves s { t with waiting := w }
  | stops {t : State} (h : Evolves s t) : Evolves s (stop t)
  | starts {t : State} (h : Evolves s t) : Evolves s (start t)
  | scntl1 {t : State} (v : Byte) (h : Evolves s t) (hv : t.scntl1 &&& 0x01#8 = 0#8 → v &&& 0x01#8 = 0#8) :
      Evolves s { t with scntl1 := v }
  | scntl2 {t : State} (v : Byte) (hv : v &&& 0x09#8 = 0#8) (h : Evolves s t) :
      Evolves s { t with storage := { t.storage with scntl2 := v } }
  | sstat0 {t : State} (v : Byte) (h : Evolves s t) (hv : t.sstat0 &&& 0xF9#8 = 0#8 → v &&& 0xF9#8 = 0#8) :
      Evolves s { t with sstat0 := v }
  | dcntl {t : State} (v : Byte) (hv : v &&& 0x44#8 = 0#8) (h : Evolves s t) : Evolves s { t with dcntl := v }
  | reset {t : State} (h : Evolves s t) : Evolves s (resetCore t)

variable {s t u : State}

/-! ### Facts about the bits that stay 0 -/

theorem and_or_02 : ∀ v : Byte, v &&& 0xF9#8 = 0#8 → (v ||| 0x02#8) &&& 0xF9#8 = 0#8 := by decide
theorem and_or_04 : ∀ v : Byte, v &&& 0xF9#8 = 0#8 → (v ||| 0x04#8) &&& 0xF9#8 = 0#8 := by decide
theorem and_and_fd : ∀ v : Byte, v &&& 0xF9#8 = 0#8 → (v &&& 0xFD#8) &&& 0xF9#8 = 0#8 := by decide
theorem fe_and_01 : ∀ v : Byte, (v &&& 0xFE#8) &&& 0x01#8 = 0#8 := by decide
theorem fd_and_01 : ∀ v : Byte, v &&& 0x01#8 = 0#8 → (v &&& 0xFD#8) &&& 0x01#8 = 0#8 := by decide
theorem fd_or_10_and_01 : ∀ v : Byte, v &&& 0x01#8 = 0#8 → ((v &&& 0xFD#8) ||| 0x10#8) &&& 0x01#8 = 0#8 := by
  decide
theorem f6_and_09 : ∀ v : Byte, (v &&& 0xF6#8) &&& 0x09#8 = 0#8 := by decide
theorem bb_and_44 : ∀ v : Byte, (v &&& 0xBB#8) &&& 0x44#8 = 0#8 := by decide
theorem dien_and_02 : ∀ v : Byte, (v &&& 0x7D#8).setWidth 7 &&& 0x02#7 = 0#7 := by decide

/-! ### The functions of the engine, their local names written out -/

theorem commandPhase_eq (s : State) : commandPhase s =
    if (askPresent s.sdid (cdbRead s)).1 then
      { applyReply
          (askCommand s.sdid (cdbBytes s) { (askPresent s.sdid (cdbRead s)).2 with request := none }).1
          (askCommand s.sdid (cdbBytes s) { (askPresent s.sdid (cdbRead s)).2 with request := none }).2
        with yield := true }
    else disconnect (raise .sto (askPresent s.sdid (cdbRead s)).2) := rfl

theorem applyReply_eq (reply : Config.DevReply) (s : State) :
    (∃ r, r.dir = .input ∧ r.pos = 0 ∧
      applyReply reply s = setPhase .dataIn { s with request := some r }) ∨
    (∃ r, r.dir = .output ∧ r.pos = 0 ∧
      applyReply reply s = setPhase .dataOut { s with request := some r }) ∨
    applyReply reply s = setPhase .status { (askStatus s.sdid s).2 with status := (askStatus s.sdid s).1 } := by
  unfold applyReply
  split
  · exact .inl ⟨_, rfl, rfl, rfl⟩
  · exact .inr (.inl ⟨_, rfl, rfl, rfl⟩)
  · exact .inr (.inr rfl)

/-- The state once the device has been told and has given its status. -/
def statusTaken (r : Request) (s : State) : State :=
  let s1 := tellData r.id (if r.dir = .output then r.buf else []) s
  { (askStatus r.id s1).2 with status := (askStatus r.id s1).1, request := none }

theorem dataComplete_eq (r : Request) (s : State) : dataComplete r s =
    setPhase .status (if s.dbc = 0#24 then statusTaken r s else raise .ma (statusTaken r s)) := rfl

theorem dataPhase_none (d : Direction) (s : State) (h : s.request = none) : dataPhase d s = s := by
  unfold dataPhase; rw [h]

theorem dataPhase_some (d : Direction) (s : State) (r : Request) (h : s.request = some r) :
    dataPhase d s =
      { (if (burstRequest d r s).pos = (burstRequest d r s).dmaLen then
          dataComplete (burstRequest d r s) (burstDone d r s) else burstDone d r s) with
        waiting := .running } := by
  unfold dataPhase; rw [h]

theorem selectTarget_eq (atn : Bool) (id : TargetId) (s : State) : selectTarget atn id s =
    if connected s then { s with dsp := s.dnad }
    else if (askPresent id { s with sstat0 := s.sstat0 ||| 0x04#8, scntl1 := s.scntl1 &&& 0xFD#8 }).1 then
      setPhase .msgOut
        { (askPresent id { s with sstat0 := s.sstat0 ||| 0x04#8, scntl1 := s.scntl1 &&& 0xFD#8 }).2 with
          scntl1 := (s.scntl1 &&& 0xFD#8) ||| 0x10#8
          socl := if atn then s.socl ||| 0x08#8 else s.socl
          waiting := .running }
    else disconnect (raise .sto
      (askPresent id { s with sstat0 := s.sstat0 ||| 0x04#8, scntl1 := s.scntl1 &&& 0xFD#8 }).2) := rfl

theorem extendedMessage_eq (s : State) : (extendedMessage s).1 =
    if s.mem.byte (s.dnad + 1#32) = 0x01#8 then skipBytes 2 (skipBytes 1 (skipBytes 1 s))
    else if s.mem.byte (s.dnad + 1#32) = 0x03#8 then skipBytes 1 (skipBytes 1 (skipBytes 1 s))
    else rejectMessage (skipBytes 1 (skipBytes 1 s)) := by
  unfold extendedMessage
  show (if _ then _ else if _ then _ else _ : State × Bool).1 = _
  split_ifs <;> simp_all

theorem messageOutLoop_succ (n : Nat) (s : State) : messageOutLoop (n + 1) s =
    if s.dbc = 0#24 then s
    else if (messageEffect (s.mem.byte s.dnad) { skipBytes 1 s with sfbr := s.mem.byte s.dnad }).2 then
      messageOutLoop n (messageEffect (s.mem.byte s.dnad) { skipBytes 1 s with sfbr := s.mem.byte s.dnad }).1
    else (messageEffect (s.mem.byte s.dnad) { skipBytes 1 s with sfbr := s.mem.byte s.dnad }).1 := rfl

/-! ### Chains -/

theorem Evolves.trans (h : Evolves s t) (h' : Evolves t u) : Evolves s u := by
  induction h' with
  | same => exact h
  | quiet u _ q ih => exact ih.quiet u q
  | memory addr bs _ ih => exact ih.memory addr bs
  | cause c _ ih => exact ih.cause c
  | enables a b c hc _ ih => exact ih.enables a b c hc
  | flag f _ ih => exact ih.flag f
  | clearDstat _ ih => exact ih.clearDstat
  | clearSist0 _ ih => exact ih.clearSist0
  | clearSist1 _ ih => exact ih.clearSist1
  | toPhase p h1 h2 _ ih => exact ih.toPhase p h1 h2
  | actOut ha _ ih => exact ih.actOut ha
  | actIn ha _ ih => exact ih.actIn ha
  | leaveBus _ ih => exact ih.leaveBus
  | requestOut r hd hp _ ih => exact ih.requestOut r hd hp
  | requestIn r hd hp _ ih => exact ih.requestIn r hd hp
  | dropRequest _ ih => exact ih.dropRequest
  | advance r r' hr hd hp _ ih => exact ih.advance r r' hr hd hp
  | queue b _ ih => exact ih.queue b
  | drain n _ ih => exact ih.drain n
  | action a ha _ ih => exact ih.action a ha
  | wait w _ ih => exact ih.wait w
  | stops _ ih => exact ih.stops
  | starts _ ih => exact ih.starts
  | scntl1 v _ hv ih => exact ih.scntl1 v hv
  | scntl2 v hv _ ih => exact ih.scntl2 v hv
  | sstat0 v _ hv ih => exact ih.sstat0 v hv
  | dcntl v hv _ ih => exact ih.dcntl v hv
  | reset _ ih => exact ih.reset

/-- States that agree on the followed fields. -/
theorem Evolves.of_tracked (q : SameTracked s t) : Evolves s t := Evolves.same.quiet t q

/-! ### The outside world and the DMA Transfer Unit -/

theorem Evolves.askPresent (id : TargetId) (h : Evolves s t) : Evolves s (askPresent id t).2 :=
  h.quiet _ (by constructor <;> rfl)

theorem Evolves.askStatus (id : TargetId) (h : Evolves s t) : Evolves s (askStatus id t).2 :=
  h.quiet _ (by constructor <;> rfl)

theorem Evolves.askCommand (id : TargetId) (cdb : List Byte) (h : Evolves s t) :
    Evolves s (askCommand id cdb t).2 :=
  h.quiet _ (by constructor <;> rfl)

theorem Evolves.tellData (id : TargetId) (out : List Byte) (h : Evolves s t) :
    Evolves s (tellData id out t) :=
  h.quiet _ (by constructor <;> rfl)

theorem Evolves.dmaRead (addr : Word) (n : Nat) (h : Evolves s t) : Evolves s (dmaRead addr n t).2 := by
  rw [(dmaRead_spec t addr n).2]
  exact h.quiet _ (by constructor <;> rfl)

theorem Evolves.dmaWrite (addr : Word) (bs : List Byte) (h : Evolves s t) :
    Evolves s (dmaWrite addr bs t) := by
  rcases dmaWrite_cases t addr bs with ⟨_, e⟩ | ⟨_, e⟩ <;> rw [e]
  · exact h.memory addr bs
  · exact h.quiet _ (by constructor <;> rfl)

/-! ### The register bank -/

theorem Evolves.regReadEffect (r : BankReg) (h : Evolves s t) : Evolves s (regReadEffect r t) := by
  cases r
  case dstat => exact h.clearDstat
  case sist0 => exact h.clearSist0
  case sist1 => exact h.clearSist1
  case ctest2 => exact h.quiet _ (by constructor <;> rfl)
  all_goals exact h

theorem Evolves.writeScntl1 (b : Byte) (h : Evolves s t) : Evolves s (writeScntl1 b t) := by
  have h1 := h.scntl1 (b &&& 0xFE#8) fun _ => fe_and_01 b
  show Evolves s (if _ then (if _ then _ else _) else _)
  split_ifs
  · exact h1
  · exact (h1.sstat0 (t.sstat0 ||| 0x02#8) fun hv => and_or_02 _ hv).cause .rst
  · exact h1.sstat0 (t.sstat0 &&& 0xFD#8) fun hv => and_and_fd _ hv

theorem Evolves.writeIstat (b : Byte) (h : Evolves s t) : Evolves s (writeIstat b t) := by
  have h1 : Evolves s { t with istatHi := b.extractLsb' 4 4 } := h.quiet _ (by constructor <;> rfl)
  have abrt (u : State) (hu : Evolves s u) : Evolves s (if b.getLsbD 7 then raise .abrt u else u) := by
    split_ifs
    · exact hu.cause .abrt
    · exact hu
  have intf (u : State) (hu : Evolves s u) :
      Evolves s (if b.getLsbD 2 then updateIrq { u with intf := false } else u) := by
    split_ifs
    · exact hu.flag false
    · exact hu
  have wake (u : State) (hu : Evolves s u) :
      Evolves s (if u.waiting = .reselect ∧ b.getLsbD 5 = true
        then { u with waiting := .running, dsp := u.dnad } else u) := by
    split_ifs
    · exact (hu.wait .running).quiet _ (by constructor <;> rfl)
    · exact hu
  have srst (u : State) (hu : Evolves s u) : Evolves s (if b.getLsbD 6 then resetCore u else u) := by
    split_ifs
    · exact hu.reset
    · exact hu
  exact srst _ (wake _ (intf _ (abrt _ h1)))

theorem Evolves.writeDsp (k : Fin 4) (b : Byte) (h : Evolves s t) : Evolves s (writeDsp k b t) := by
  have h1 : Evolves s { t with dsp := setLane t.dsp k b } := h.quiet _ (by constructor <;> rfl)
  show Evolves s (if _ then _ else _)
  split_ifs
  · exact h1.starts
  · exact h1

theorem Evolves.writeDcntl (b : Byte) (h : Evolves s t) : Evolves s (writeDcntl b t) := by
  have h1 := h.dcntl (b &&& 0xBB#8) (bb_and_44 b)
  show Evolves s (if _ then _ else _)
  split_ifs
  · exact h1.starts
  · exact h1

theorem Evolves.regWriteAt (r : BankReg) (b : Byte) (h : Evolves s t) : Evolves s (regWriteAt r b t) := by
  cases r
  case scntl1 => exact h.writeScntl1 b
  case scntl2 => exact h.scntl2 (b &&& 0xF6#8) (f6_and_09 b)
  case istat => exact h.writeIstat b
  case dsp k => exact h.writeDsp k b
  case dcntl => exact h.writeDcntl b
  case dien => exact h.enables t.sien0 t.sien1 ((b &&& 0x7D#8).setWidth 7) fun _ => dien_and_02 b
  case sien0 => exact h.enables b t.sien1 t.dien id
  case sien1 => exact h.enables t.sien0 (b.setWidth 3) t.dien id
  all_goals first | exact h | exact h.quiet _ (by constructor <;> rfl)

theorem Evolves.regWrite (off b : Byte) (h : Evolves s t) : Evolves s (regWrite off b t) :=
  h.regWriteAt (regAt off) b

theorem Evolves.regWrites (off : Byte) (bs : List Byte) (h : Evolves s t) :
    Evolves s (regWrites off bs t) := by
  induction bs generalizing t off with
  | nil => exact h
  | cons b rest ih => exact ih (off + 1#8) (h.regWrite off b)

theorem Evolves.regReads (off : Byte) (n : Nat) (h : Evolves s t) : Evolves s (regReads off n t).2 := by
  induction n generalizing t off with
  | zero => exact h
  | succ n ih => exact ih (off + 1#8) (h.regReadEffect (regAt off))

/-! ### The phase engine -/

theorem Evolves.commandPhase (h : Evolves s t) : Evolves s (commandPhase t) := by
  have h0 : Evolves s (cdbRead t) := h.quiet _ (by constructor <;> rfl)
  have h1 := h0.askPresent t.sdid
  rw [commandPhase_eq]
  split
  · have h2 := h1.dropRequest.askCommand t.sdid (cdbBytes t)
    refine Evolves.quiet _ (t := applyReply _ _) ?_ (by constructor <;> rfl)
    rcases applyReply_eq (Machine.askCommand t.sdid (cdbBytes t)
        { (Machine.askPresent t.sdid (cdbRead t)).2 with request := none }).1
      (Machine.askCommand t.sdid (cdbBytes t)
        { (Machine.askPresent t.sdid (cdbRead t)).2 with request := none }).2 with
      ⟨r, hd, hp, e⟩ | ⟨r, hd, hp, e⟩ | e <;> rw [e]
    · exact h2.requestIn r hd (by omega)
    · exact h2.requestOut r hd (by omega)
    · refine Evolves.toPhase .status (by simp) (by simp) ?_
      have h3 := h2.askStatus (Machine.askCommand t.sdid (cdbBytes t)
        { (Machine.askPresent t.sdid (cdbRead t)).2 with request := none }).2.sdid
      exact h3.quiet _ (by constructor <;> rfl)
  · exact (h1.cause .sto).leaveBus

theorem Evolves.statusTaken (r : Request) (h : Evolves s t) : Evolves s (statusTaken r t) :=
  ((h.tellData r.id (if r.dir = .output then r.buf else [])).askStatus r.id).dropRequest.quiet _
    (by constructor <;> rfl)

theorem Evolves.dataComplete (r : Request) (h : Evolves s t) : Evolves s (dataComplete r t) := by
  rw [dataComplete_eq]
  refine Evolves.toPhase .status (by simp) (by simp) ?_
  split
  · exact h.statusTaken r
  · exact (h.statusTaken r).cause .ma

/-- Data that fill a request within its buffer keep the buffer's length. -/
theorem Request.fill_dmaLen (r : Request) (data : List Byte) (h : r.pos + data.length ≤ r.dmaLen) :
    (r.fill data).dmaLen = r.dmaLen := by
  simp only [Request.fill, Request.dmaLen, List.length_append, List.length_take, List.length_drop] at *
  omega

/-- The move of a data phase keeps the request but for its data, and stays in the buffer. -/
theorem moveData_request (d : Direction) (r : Request) (addr : Word) (n : Nat) (t : State)
    (h : r.pos + n ≤ r.dmaLen) :
    (moveData d r addr n t).1.dir = r.dir ∧ (moveData d r addr n t).1.pos = r.pos ∧
    (moveData d r addr n t).1.dmaLen = r.dmaLen := by
  cases d with
  | output =>
    have hl := (dmaRead_spec t addr n).1
    exact ⟨rfl, rfl, Request.fill_dmaLen r (dmaRead addr n t).1 (by rw [hl]; exact h)⟩
  | input => exact ⟨rfl, rfl, rfl⟩

theorem Evolves.moveData (d : Direction) (r : Request) (addr : Word) (n : Nat) (h : Evolves s t) :
    Evolves s (moveData d r addr n t).2 := by
  cases d with
  | output => exact h.dmaRead addr n
  | input => exact h.dmaWrite addr _

/-- The move of a data phase does not touch the field `request`. -/
theorem moveData_field (d : Direction) (r : Request) (addr : Word) (n : Nat) (t : State) :
    (moveData d r addr n t).2.request = t.request := by
  cases d with
  | output =>
    show (dmaRead addr n t).2.request = _
    rw [(dmaRead_spec t addr n).2]
  | input =>
    show (dmaWrite addr _ t).request = _
    rcases dmaWrite_cases t addr ((r.buf.drop r.pos).take n) with ⟨_, e⟩ | ⟨_, e⟩ <;> rw [e]
    all_goals rfl

/-- A data phase keeps the request's direction and, within its buffer, its length; the position advances. -/
theorem burstRequest_spec (d : Direction) (r : Request) (t : State) :
    (burstRequest d r t).dir = r.dir ∧ (r.pos ≤ r.dmaLen →
      (burstRequest d r t).pos = r.pos + dataCount r t ∧ (burstRequest d r t).dmaLen = r.dmaLen ∧
      (burstRequest d r t).pos ≤ (burstRequest d r t).dmaLen) := by
  refine ⟨by cases d <;> rfl, fun hp => ?_⟩
  have hb : r.pos + dataCount r t ≤ r.dmaLen := by unfold dataCount; omega
  obtain ⟨_, hpos, hlen⟩ := moveData_request d r t.dnad (dataCount r t) (burst r t) hb
  have h1 : (burstRequest d r t).pos = r.pos + dataCount r t := congrArg (· + dataCount r t) hpos
  have h2 : (burstRequest d r t).dmaLen = r.dmaLen := hlen
  exact ⟨h1, h2, by omega⟩

theorem Evolves.dataPhase (d : Direction) (h : Evolves s t) : Evolves s (dataPhase d t) := by
  cases hr : t.request with
  | none => rw [dataPhase_none d t hr]; exact h
  | some r =>
    rw [dataPhase_some d t r hr]
    refine Evolves.wait .running ?_
    have h1 : Evolves s (burst r t) := (h.wait .dma).quiet _ (by constructor <;> rfl)
    have h2 := h1.moveData d r t.dnad (dataCount r t)
    have h3 : Evolves s (burstDone d r t) :=
      h2.advance r _ ((moveData_field d r _ _ _).trans hr) (burstRequest_spec d r t).1
        fun hp => ((burstRequest_spec d r t).2 hp).2.2
    split
    · exact h3.dataComplete _
    · exact h3

theorem Evolves.statusPhase (h : Evolves s t) : Evolves s (statusPhase t) := by
  have h1 : Evolves s { t with sfbr := t.status } := h.quiet _ (by constructor <;> rfl)
  have h2 := h1.dmaWrite t.dnad [t.status]
  have h3 := (h2.action .disconnect (.inr rfl)).quiet { Machine.dmaWrite t.dnad [t.status]
    { t with sfbr := t.status } with dnad := t.dnad + 1#32, dbc := 0#24, msgAction := .disconnect }
    (by constructor <;> rfl)
  exact (h3.toPhase .msgIn (by simp) (by simp)).queue 0x00#8

theorem Evolves.sendMessages (h : Evolves s t) : Evolves s (sendMessages t) := by
  have h1 : Evolves s { t with sfbr := t.msg.headD 0#8 } := h.quiet _ (by constructor <;> rfl)
  have key (len : Nat) : Evolves s { Machine.dmaWrite t.dnad (t.msg.take len)
      { t with sfbr := t.msg.headD 0#8 } with
      sidl := t.msg.getD (len - 1) 0#8
      dnad := t.dnad + BitVec.ofNat 32 len
      dbc := t.dbc - BitVec.ofNat 24 len
      msg := t.msg.drop len } := by
    have h2 := h1.dmaWrite t.dnad (t.msg.take len)
    rcases dmaWrite_cases { t with sfbr := t.msg.headD 0#8 } t.dnad (t.msg.take len) with
      ⟨_, e⟩ | ⟨_, e⟩ <;> rw [e] at h2 ⊢ <;>
      exact (h2.drain len).quiet _ (by constructor <;> rfl)
  show Evolves s (if _ then _ else _)
  split_ifs
  · exact key _
  · exact h

theorem Evolves.doMsgAction (h : Evolves s t) : Evolves s (doMsgAction t) := by
  unfold Machine.doMsgAction
  split
  · exact h.toPhase .command (by simp) (by simp)
  · exact h.leaveBus
  · exact h.actOut (by assumption)
  · exact h.actIn (by assumption)

theorem Evolves.messageIn (h : Evolves s t) : Evolves s (messageIn t) := by
  show Evolves s (if _ then _ else _)
  split_ifs
  · exact h.sendMessages.doMsgAction
  · exact h.sendMessages

theorem Evolves.skipBytes (k : Nat) (h : Evolves s t) : Evolves s (skipBytes k t) :=
  h.quiet _ (by constructor <;> rfl)

theorem Evolves.rejectMessage (h : Evolves s t) : Evolves s (rejectMessage t) :=
  ((h.toPhase .msgIn (by simp) (by simp)).queue 0x07#8).action .command (.inl rfl)

theorem Evolves.messageEffect (m : Byte) (h : Evolves s t) : Evolves s (messageEffect m t).1 := by
  unfold Machine.messageEffect
  split_ifs
  · exact h.leaveBus
  · exact h.toPhase .command (by simp) (by simp)
  · rw [extendedMessage_eq]
    split_ifs
    · exact ((h.skipBytes 1).skipBytes 1).skipBytes 2
    · exact ((h.skipBytes 1).skipBytes 1).skipBytes 1
    · exact ((h.skipBytes 1).skipBytes 1).rejectMessage
  · exact (h.skipBytes 1).quiet _ (by constructor <;> rfl)
  · exact h.dropRequest.leaveBus
  · exact (h.quiet { t with currentLun := m.extractLsb' 0 3 } (by constructor <;> rfl)).toPhase
      .command (by simp) (by simp)
  · exact h.rejectMessage

theorem Evolves.messageOutLoop (n : Nat) (h : Evolves s t) : Evolves s (messageOutLoop n t) := by
  induction n generalizing t with
  | zero => exact h
  | succ n ih =>
    have h1 := Evolves.messageEffect (t.mem.byte t.dnad)
      ((h.skipBytes 1).quiet { Machine.skipBytes 1 t with sfbr := t.mem.byte t.dnad }
        (by constructor <;> rfl))
    rw [messageOutLoop_succ]
    split_ifs
    · exact h
    · exact ih h1
    · exact h1

theorem Evolves.runHandler (h : Evolves s t) : Evolves s (runHandler t) := by
  unfold Machine.runHandler
  split
  · exact h.dataPhase .output
  · exact h.dataPhase .input
  · exact h.commandPhase
  · exact h.statusPhase
  · exact h.messageOutLoop _
  · exact h.messageIn

/-! ### The instructions -/

theorem Evolves.blockMove (ph : BitVec 3) (count : Word24) (addr : Word) (h : Evolves s t) :
    Evolves s (blockMove ph count addr t) := by
  have h1 : Evolves s (loadCount count t) := h.quiet _ (by constructor <;> rfl)
  unfold Machine.blockMove checkedTransfer
  split_ifs
  · exact h.stops
  · exact Evolves.quiet _ (t := Machine.runHandler { loadCount count t with dnad := addr })
      (Evolves.runHandler (h1.quiet _ (by constructor <;> rfl))) (by constructor <;> rfl)
  · exact h1.cause .ma

theorem Evolves.aluFromSfbr (op : AluOp) (reg imm : Byte) (h : Evolves s t) :
    Evolves s (aluFromSfbr op reg imm t) :=
  Evolves.regWrite reg _ (h.quiet _ (by constructor <;> rfl))

theorem Evolves.aluFirst (op : AluOp) (reg : Byte) (h : Evolves s t) : Evolves s (aluFirst op reg t).2 := by
  unfold Machine.aluFirst
  split_ifs
  · exact h
  · exact h.regReadEffect (regAt reg)

theorem Evolves.aluToSfbr (op : AluOp) (reg imm : Byte) (h : Evolves s t) :
    Evolves s (aluToSfbr op reg imm t) :=
  (h.aluFirst op reg).quiet _ (by constructor <;> rfl)

theorem Evolves.aluModify (op : AluOp) (reg : Byte) (src : RmSource) (h : Evolves s t) :
    Evolves s (aluModify op reg src t) :=
  Evolves.regWrite reg _ ((h.aluFirst op reg).quiet _ (by constructor <;> rfl))

theorem Evolves.gated (c : Cond) {done : State} (h : Evolves s t) (hd : Evolves s done) :
    Evolves s (gated c t done) := by
  unfold Machine.gated
  split_ifs
  · exact h.stops
  · exact hd
  · exact h

theorem Evolves.selectTarget (atn : Bool) (id : TargetId) (h : Evolves s t) :
    Evolves s (selectTarget atn id t) := by
  have h1 : Evolves s { t with sstat0 := t.sstat0 ||| 0x04#8, scntl1 := t.scntl1 &&& 0xFD#8 } :=
    (h.sstat0 (t.sstat0 ||| 0x04#8) (and_or_04 _)).scntl1 (t.scntl1 &&& 0xFD#8) fun hv => fd_and_01 _ hv
  have h2 := h1.askPresent id
  rw [selectTarget_eq]
  split
  · exact h.quiet _ (by constructor <;> rfl)
  · split
    · refine Evolves.toPhase .msgOut (by simp) (by simp) ?_
      refine Evolves.quiet _ (((h.sstat0 (t.sstat0 ||| 0x04#8) (and_or_04 _)).scntl1
        ((t.scntl1 &&& 0xFD#8) ||| 0x10#8) fun hv => fd_or_10_and_01 _ hv).wait .running) ?_
      constructor <;> rfl
    · exact (h2.cause .sto).leaveBus

theorem Evolves.setPhaseIf (b : Bool) (v : Byte) (h : Evolves s t) :
    Evolves s (if b then setPhase .msgOut { t with socl := v } else t) := by
  split_ifs
  · exact (h.quiet { t with socl := v } (by constructor <;> rfl)).toPhase .msgOut (by simp) (by simp)
  · exact h

/-- Every instruction is a chain of updates. -/
theorem exec_evolves {i : Instr} (h : exec i s = .next t) : Evolves s t := by
  have ev := Evolves.same (s := s)
  have pre (a : Target) : Evolves s (ioPrelude a s) := ev.quiet _ (by constructor <;> rfl)
  cases i <;> cases h
  case pad => exact ev.quiet _ (by constructor <;> rfl)
  case moveInd ph count ptr => exact ev.blockMove ph count _
  case moveTbl ph off => exact ev.blockMove ph _ _
  case move ph count addr => exact ev.blockMove ph count addr
  case select atn id alt => exact Evolves.selectTarget atn _ ((pre alt).quiet _ (by constructor <;> rfl))
  case waitDisconnect tbl alt => exact (pre alt).leaveBus.wait .running
  case waitReselect tbl alt => exact (pre alt).wait .reselect
  case set f tbl alt =>
    have h1 := (pre alt).setPhaseIf f.atn ((ioPrelude alt s).socl ||| 0x08#8)
    have h2 : ∀ u : State, Evolves s u → Evolves s (if f.ack then { u with socl := u.socl ||| 0x40#8 } else u) := by
      intro u hu
      split_ifs
      · exact hu.quiet _ (by constructor <;> rfl)
      · exact hu
    have h3 : ∀ u : State, Evolves s u → Evolves s (if f.carry then { u with carry := true } else u) := by
      intro u hu
      split_ifs
      · exact hu.quiet _ (by constructor <;> rfl)
      · exact hu
    exact h3 _ (h2 _ h1)
  case clear f tbl alt =>
    refine (pre alt).quiet _ ?_
    obtain ⟨c, _, k, n⟩ := f
    cases c <;> cases k <;> cases n <;> constructor <;> rfl
  case tcIllegal => exact ev.cause .iid
  case nop => exact ev
  case jump c a => exact ev.gated c (ev.quiet _ (by constructor <;> rfl))
  case call c a => exact ev.gated c (ev.quiet _ (by constructor <;> rfl))
  case ret c => exact ev.gated c (ev.quiet _ (by constructor <;> rfl))
  case int c v => exact ev.gated c (ev.cause .sir)
  case intfly c v => exact ev.gated c (ev.flag true)
  case moveMemory n src dst =>
    exact Evolves.dmaWrite dst _ (Evolves.dmaRead src _ (ev.quiet _ (by constructor <;> rfl)))
  case load reg n a => exact ev.regWrites reg _
  case store reg n a => exact (ev.regReads reg _).memory _ _
  all_goals
    first
    | exact ev.aluFromSfbr _ _ _
    | exact ev.aluToSfbr _ _ _
    | exact ev.aluModify _ _ _

/-! ### The run loop -/

theorem Evolves.endOfInstruction_cases (t : State) :
    (∃ u, Evolves t u ∧ endOfInstruction t = leaveRun u) ∨
      endOfInstruction t = t ∧ t.inRun = t.inRun ∧ (t.icount ≤ Config.budget) := by
  unfold endOfInstruction
  split_ifs with h1 h2 h3 h4
  · exact .inl ⟨_, (Evolves.same.cause .udc).leaveBus, rfl⟩
  · exact .inl ⟨_, .same, rfl⟩
  · exact .inl ⟨_, Evolves.same.cause .ssi, rfl⟩
  · exact .inl ⟨_, .same, rfl⟩
  · refine .inr ⟨rfl, rfl, ?_⟩
    by_contra hb
    refine h1 ⟨by omega, ?_⟩
    by_contra hw
    exact h2 (by simp [running, hw])

/-- The three kinds of step. -/
theorem step_cases (h : step s = .next t) :
    (s.inRun = true ∧ running s = true ∧
      ∃ u, exec (fetchInstr s) (fetched s) = .next u ∧ t = endOfInstruction u) ∨
    (s.inRun = true ∧ running s = false ∧ t = leaveRun s) ∨
    (s.inRun = false ∧ t = externalEvent s) := by
  unfold step at h
  cases hr : s.inRun
  · rw [hr] at h
    cases h
    exact .inr (.inr ⟨rfl, rfl⟩)
  · rw [hr] at h
    cases hg : running s
    · simp only [hg] at h
      cases h
      exact .inr (.inl ⟨rfl, rfl, rfl⟩)
    · simp only [hg, if_true] at h
      split at h
      · rename_i u hu
        cases h
        exact .inl ⟨rfl, rfl, u, hu, rfl⟩
      · cases h
      · cases h

end Sys2Proof.Machine
end

