-- ==== Sys2Proof/Laws/PerInstr.lean ====
section
/-! SUPPORT. For every instruction: the first word the encoder writes fits the instruction's row of
30_encoding R139 (its mask and its fixed bits). -/

namespace Sys2Proof.Laws.FirstWordFits

/-- The first word of the encoding fits the row of the instruction's mnemonic. -/
def Statement (i : Instr) : Prop :=
  i.wf = true → ∃ w rest r, encode i = w :: rest ∧ r ∈ opcodeRows ∧ r.mnemonic = i.mnemonic ∧ r.fits w = true

/-- A mask over the top byte sees the top byte only. -/
theorem top_and (top m : Byte) (low : Word24) : firstWord top low &&& (m ++ 0#24) = (top &&& m) ++ 0#24 := by
  rw [firstWord, BitVec.and_append, BitVec.and_zero]

/-- A row whose mask lies in the top byte fits a word with that top byte. -/
theorem of_top {i : Instr} {rest : List Word} (top : Byte) (low : Word24) (r : OpcodeRow) (m f : Byte)
    (he : encode i = firstWord top low :: rest) (hr : r ∈ opcodeRows) (hn : r.mnemonic = i.mnemonic)
    (hm : r.mask = m ++ 0#24) (hf : r.fixed = f ++ 0#24) (ht : top &&& m = f) : Statement i := by
  intro _
  refine ⟨firstWord top low, rest, r, he, hr, hn, ?_⟩
  rw [OpcodeRow.fits, hm, hf, top_and, ht]
  exact beq_self_eq_true _

theorem pad : Statement .pad := fun _ =>
  ⟨_, _, ⟨"PAD", 0xFFFFFFFF#32, 0x00000000#32, 4⟩, rfl, by decide, rfl, rfl⟩

theorem moveInd (ph : BitVec 3) (count : Word24) (ptr : Word) : Statement (.moveInd ph count ptr) :=
  of_top _ _ ⟨"MOVE.IND", 0xE0000000#32, 0x20000000#32, 8⟩ 0xE0#8 0x20#8
    rfl (by decide) rfl rfl rfl (by revert ph; decide)

theorem moveTbl (ph : BitVec 3) (off : Word24) : Statement (.moveTbl ph off) :=
  of_top _ _ ⟨"MOVE.TBL", 0xF0000000#32, 0x10000000#32, 8⟩ 0xF0#8 0x10#8
    rfl (by decide) rfl rfl rfl (by revert ph; decide)

theorem bm_top : ∀ (b : Bool) (ph : BitVec 3), bmTop false false b ph &&& 0xF0#8 = 0x00#8 := by decide

theorem move (ph : BitVec 3) (count : Word24) (addr : Word) : Statement (.move ph count addr) :=
  of_top _ _ ⟨"MOVE", 0xF0000000#32, 0x00000000#32, 8⟩ 0xF0#8 0x00#8
    rfl (by decide) rfl rfl rfl (bm_top _ ph)

theorem io_top (opc : BitVec 3) (f : Byte)
    (h : ∀ rel tbl satn : Bool, ioTop opc rel tbl satn &&& 0xF8#8 = f) (rel tbl satn : Bool) :
    ioTop opc rel tbl satn &&& 0xF8#8 = f := h rel tbl satn

theorem select (atn : Bool) (id : IdSource) (alt : Target) : Statement (.select atn id alt) :=
  of_top _ _ ⟨"SELECT", 0xF8000000#32, 0x40000000#32, 8⟩ 0xF8#8 0x40#8
    rfl (by decide) rfl rfl rfl (io_top _ _ (by decide) _ _ _)

theorem waitDisconnect (tbl : Option Word24) (alt : Target) : Statement (.waitDisconnect tbl alt) :=
  of_top _ _ ⟨"WAIT_DISCONNECT", 0xF8000000#32, 0x48000000#32, 8⟩ 0xF8#8 0x48#8
    rfl (by decide) rfl rfl rfl (io_top _ _ (by decide) _ _ _)

theorem waitReselect (tbl : Option Word24) (alt : Target) : Statement (.waitReselect tbl alt) :=
  of_top _ _ ⟨"WAIT_RESELECT", 0xF8000000#32, 0x50000000#32, 8⟩ 0xF8#8 0x50#8
    rfl (by decide) rfl rfl rfl (io_top _ _ (by decide) _ _ _)

theorem set (f : IoFlags) (tbl : Option Word24) (alt : Target) : Statement (.set f tbl alt) :=
  of_top _ _ ⟨"SET", 0xF8000000#32, 0x58000000#32, 8⟩ 0xF8#8 0x58#8
    rfl (by decide) rfl rfl rfl (io_top _ _ (by decide) _ _ _)

theorem clear (f : IoFlags) (tbl : Option Word24) (alt : Target) : Statement (.clear f tbl alt) :=
  of_top _ _ ⟨"CLEAR", 0xF8000000#32, 0x60000000#32, 8⟩ 0xF8#8 0x60#8
    rfl (by decide) rfl rfl rfl (io_top _ _ (by decide) _ _ _)

theorem movFs (reg imm : Byte) : Statement (.movFs reg imm) :=
  of_top _ _ ⟨"MOV.FS", 0xFF000000#32, 0x68000000#32, 8⟩ 0xFF#8 0x68#8
    rfl (by decide) rfl rfl rfl (by decide)

theorem shlFs (reg imm : Byte) : Statement (.shlFs reg imm) :=
  of_top _ _ ⟨"SHL.FS", 0xFF000000#32, 0x69000000#32, 8⟩ 0xFF#8 0x69#8
    rfl (by decide) rfl rfl rfl (by decide)

theorem orFs (reg imm : Byte) : Statement (.orFs reg imm) :=
  of_top _ _ ⟨"OR.FS", 0xFF000000#32, 0x6A000000#32, 8⟩ 0xFF#8 0x6A#8
    rfl (by decide) rfl rfl rfl (by decide)

theorem xorFs (reg imm : Byte) : Statement (.xorFs reg imm) :=
  of_top _ _ ⟨"XOR.FS", 0xFF000000#32, 0x6B000000#32, 8⟩ 0xFF#8 0x6B#8
    rfl (by decide) rfl rfl rfl (by decide)

theorem andFs (reg imm : Byte) : Statement (.andFs reg imm) :=
  of_top _ _ ⟨"AND.FS", 0xFF000000#32, 0x6C000000#32, 8⟩ 0xFF#8 0x6C#8
    rfl (by decide) rfl rfl rfl (by decide)

theorem shrFs (reg imm : Byte) : Statement (.shrFs reg imm) :=
  of_top _ _ ⟨"SHR.FS", 0xFF000000#32, 0x6D000000#32, 8⟩ 0xFF#8 0x6D#8
    rfl (by decide) rfl rfl rfl (by decide)

theorem addFs (reg imm : Byte) : Statement (.addFs reg imm) :=
  of_top _ _ ⟨"ADD.FS", 0xFF000000#32, 0x6E000000#32, 8⟩ 0xFF#8 0x6E#8
    rfl (by decide) rfl rfl rfl (by decide)

theorem adcFs (reg imm : Byte) : Statement (.adcFs reg imm) :=
  of_top _ _ ⟨"ADC.FS", 0xFF000000#32, 0x6F000000#32, 8⟩ 0xFF#8 0x6F#8
    rfl (by decide) rfl rfl rfl (by decide)

theorem movTs (reg imm : Byte) : Statement (.movTs reg imm) :=
  of_top _ _ ⟨"MOV.TS", 0xFF000000#32, 0x70000000#32, 8⟩ 0xFF#8 0x70#8
    rfl (by decide) rfl rfl rfl (by decide)

theorem shlTs (reg imm : Byte) : Statement (.shlTs reg imm) :=
  of_top _ _ ⟨"SHL.TS", 0xFF000000#32, 0x71000000#32, 8⟩ 0xFF#8 0x71#8
    rfl (by decide) rfl rfl rfl (by decide)

theorem orTs (reg imm : Byte) : Statement (.orTs reg imm) :=
  of_top _ _ ⟨"OR.TS", 0xFF000000#32, 0x72000000#32, 8⟩ 0xFF#8 0x72#8
    rfl (by decide) rfl rfl rfl (by decide)

theorem xorTs (reg imm : Byte) : Statement (.xorTs reg imm) :=
  of_top _ _ ⟨"XOR.TS", 0xFF000000#32, 0x73000000#32, 8⟩ 0xFF#8 0x73#8
    rfl (by decide) rfl rfl rfl (by decide)

theorem andTs (reg imm : Byte) : Statement (.andTs reg imm) :=
  of_top _ _ ⟨"AND.TS", 0xFF000000#32, 0x74000000#32, 8⟩ 0xFF#8 0x74#8
    rfl (by decide) rfl rfl rfl (by decide)

theorem shrTs (reg imm : Byte) : Statement (.shrTs reg imm) :=
  of_top _ _ ⟨"SHR.TS", 0xFF000000#32, 0x75000000#32, 8⟩ 0xFF#8 0x75#8
    rfl (by decide) rfl rfl rfl (by decide)

theorem addTs (reg imm : Byte) : Statement (.addTs reg imm) :=
  of_top _ _ ⟨"ADD.TS", 0xFF000000#32, 0x76000000#32, 8⟩ 0xFF#8 0x76#8
    rfl (by decide) rfl rfl rfl (by decide)

theorem adcTs (reg imm : Byte) : Statement (.adcTs reg imm) :=
  of_top _ _ ⟨"ADC.TS", 0xFF000000#32, 0x77000000#32, 8⟩ 0xFF#8 0x77#8
    rfl (by decide) rfl rfl rfl (by decide)

theorem movRm (reg : Byte) (src : RmSource) : Statement (.movRm reg src) := by
  cases src <;> exact of_top _ _ ⟨"MOV.RM", 0xFF000000#32, 0x78000000#32, 8⟩ 0xFF#8 0x78#8
    rfl (by decide) rfl rfl rfl (by decide)

theorem shlRm (reg : Byte) (src : RmSource) : Statement (.shlRm reg src) := by
  cases src <;> exact of_top _ _ ⟨"SHL.RM", 0xFF000000#32, 0x79000000#32, 8⟩ 0xFF#8 0x79#8
    rfl (by decide) rfl rfl rfl (by decide)

theorem orRm (reg : Byte) (src : RmSource) : Statement (.orRm reg src) := by
  cases src <;> exact of_top _ _ ⟨"OR.RM", 0xFF000000#32, 0x7A000000#32, 8⟩ 0xFF#8 0x7A#8
    rfl (by decide) rfl rfl rfl (by decide)

theorem xorRm (reg : Byte) (src : RmSource) : Statement (.xorRm reg src) := by
  cases src <;> exact of_top _ _ ⟨"XOR.RM", 0xFF000000#32, 0x7B000000#32, 8⟩ 0xFF#8 0x7B#8
    rfl (by decide) rfl rfl rfl (by decide)

theorem andRm (reg : Byte) (src : RmSource) : Statement (.andRm reg src) := by
  cases src <;> exact of_top _ _ ⟨"AND.RM", 0xFF000000#32, 0x7C000000#32, 8⟩ 0xFF#8 0x7C#8
    rfl (by decide) rfl rfl rfl (by decide)

theorem shrRm (reg : Byte) (src : RmSource) : Statement (.shrRm reg src) := by
  cases src <;> exact of_top _ _ ⟨"SHR.RM", 0xFF000000#32, 0x7D000000#32, 8⟩ 0xFF#8 0x7D#8
    rfl (by decide) rfl rfl rfl (by decide)

theorem addRm (reg : Byte) (src : RmSource) : Statement (.addRm reg src) := by
  cases src <;> exact of_top _ _ ⟨"ADD.RM", 0xFF000000#32, 0x7E000000#32, 8⟩ 0xFF#8 0x7E#8
    rfl (by decide) rfl rfl rfl (by decide)

theorem adcRm (reg : Byte) (src : RmSource) : Statement (.adcRm reg src) := by
  cases src <;> exact of_top _ _ ⟨"ADC.RM", 0xFF000000#32, 0x7F000000#32, 8⟩ 0xFF#8 0x7F#8
    rfl (by decide) rfl rfl rfl (by decide)

theorem tcIllegal (opc : BitVec 2) : Statement (.tcIllegal opc) :=
  of_top _ _ ⟨"TC.ILLEGAL", 0xE0000000#32, 0xA0000000#32, 8⟩ 0xE0#8 0xA0#8
    rfl (by decide) rfl rfl rfl (by revert opc; decide)

theorem nop : Statement .nop := fun _ =>
  ⟨_, _, ⟨"NOP", 0xE02E0000#32, 0x80000000#32, 8⟩, rfl, by decide, rfl, rfl⟩

theorem tc_top (opc : BitVec 3) (f : Byte) (h : ∀ ph : BitVec 3, (0b10#2 ++ opc ++ ph) &&& 0xF8#8 = f)
    (c : Cond) : (0b10#2 ++ opc ++ c.ph) &&& 0xF8#8 = f := h c.ph

theorem jump (c : Cond) (t : Target) : Statement (.jump c t) :=
  of_top _ _ ⟨"JUMP", 0xF8000000#32, 0x80000000#32, 8⟩ 0xF8#8 0x80#8
    rfl (by decide) rfl rfl rfl (tc_top _ _ (by decide) c)

theorem call (c : Cond) (t : Target) : Statement (.call c t) :=
  of_top _ _ ⟨"CALL", 0xF8000000#32, 0x88000000#32, 8⟩ 0xF8#8 0x88#8
    rfl (by decide) rfl rfl rfl (tc_top _ _ (by decide) c)

theorem ret (c : Cond) : Statement (.ret c) :=
  of_top _ _ ⟨"RETURN", 0xF8000000#32, 0x90000000#32, 8⟩ 0xF8#8 0x90#8
    rfl (by decide) rfl rfl rfl (tc_top _ _ (by decide) c)

/-- The mask of INT and INTFLY: OPC in the top byte and FLY, bit 20. -/
theorem tc_fly (fly : Bool) (c : Cond) :
    tcWord 3#3 false fly c &&& 0xF8100000#32 = 0x98#8 ++ (0#3 ++ BitVec.ofBool fly ++ 0#20) := by
  rw [show 0xF8100000#32 = 0xF8#8 ++ (0#1 ++ 0#1 ++ 0#1 ++ 1#1 ++ 0#1 ++ 0#1 ++ 0#1 ++ 0#1 ++ 0#8 ++ 0#8) from rfl,
    tcWord, firstWord, BitVec.and_append]
  congr 1
  · exact (by decide : ∀ ph : BitVec 3, (0b10#2 ++ 3#3 ++ ph) &&& 0xF8#8 = 0x98#8) c.ph
  · simp only [BitVec.and_append, BitVec.and_zero]
    cases fly <;> rfl

theorem int (c : Cond) (v : Word) : Statement (.int c v) := fun _ =>
  ⟨_, _, ⟨"INT", 0xF8100000#32, 0x98000000#32, 8⟩, rfl, by decide, rfl, by
    rw [OpcodeRow.fits, tc_fly]; decide⟩

theorem intfly (c : Cond) (v : Word) : Statement (.intfly c v) := fun _ =>
  ⟨_, _, ⟨"INTFLY", 0xF8100000#32, 0x98100000#32, 8⟩, rfl, by decide, rfl, by
    rw [OpcodeRow.fits, tc_fly]; decide⟩

theorem moveMemory (count : Word24) (src dst : Word) : Statement (.moveMemory count src dst) :=
  of_top _ _ ⟨"MOVE_MEMORY", 0xE0000000#32, 0xC0000000#32, 12⟩ 0xE0#8 0xC0#8
    rfl (by decide) rfl rfl rfl (by decide)

theorem ls_top (ld : Bool) (f : Byte)
    (h : ∀ d : Bool, (0b111#3 ++ BitVec.ofBool d ++ 0#3 ++ BitVec.ofBool ld) &&& 0xE1#8 = f) (d : Bool) :
    (0b111#3 ++ BitVec.ofBool d ++ 0#3 ++ BitVec.ofBool ld) &&& 0xE1#8 = f := h d

theorem load (reg : Byte) (n : BitVec 3) (addr : LsAddr) : Statement (.load reg n addr) :=
  of_top _ _ ⟨"LOAD", 0xE1000000#32, 0xE1000000#32, 8⟩ 0xE1#8 0xE1#8
    rfl (by decide) rfl rfl rfl (ls_top _ _ (by decide) _)

theorem store (reg : Byte) (n : BitVec 3) (addr : LsAddr) : Statement (.store reg n addr) :=
  of_top _ _ ⟨"STORE", 0xE1000000#32, 0xE0000000#32, 8⟩ 0xE1#8 0xE0#8
    rfl (by decide) rfl rfl rfl (ls_top _ _ (by decide) _)

end Sys2Proof.Laws.FirstWordFits
end

