-- ==== Sys2Proof/Tests/Slice0.lean ====
section
/-! SUPPORT. Tests on fixed values, all closed by evaluation: what WellFormed refuses, one encoding of every
constructor written out field by field from 30_encoding, one or two steps of every instruction with the end
states of 95_test_vectors, and for every statement with hypotheses a state and operands that meet them all. -/

namespace Sys2Proof.Tests

open Sys2Proof.Machine Sys2Proof.Claims

/-! ### WellFormed refuses ill-formed terms -/

/-- No test and no polarity: the NOP pattern (44_transfer_control R262). -/
def nopCond : Cond :=
  { ct := false, jt := false, cd := false, cp := false, ph := 0#3, mask := 0#8, data := 0#8 }

/-- No test, JT = 1: always. -/
def always : Cond := { nopCond with jt := true }

/-- Taken if the carry is set. -/
def ifCarry : Cond := { always with ct := true }

/-- No flag of Set or Clear. -/
def noFlags : IoFlags := { carry := false, trg := false, ack := false, atn := false }

/-- The flags CARRY, ACK and ATN. -/
def threeFlags : IoFlags := { carry := true, trg := false, ack := true, atn := true }

theorem test_wf_refuses_jump_with_nop_condition : (Instr.jump nopCond (.abs 0#32)).wf = false := by decide
theorem test_wf_refuses_call_with_nop_condition : (Instr.call nopCond (.abs 0#32)).wf = false := by decide
theorem test_wf_refuses_return_with_nop_condition : (Instr.ret nopCond).wf = false := by decide
theorem test_wf_refuses_int_with_nop_condition : (Instr.int nopCond 0#32).wf = false := by decide
theorem test_wf_refuses_intfly_with_nop_condition : (Instr.intfly nopCond 0#32).wf = false := by decide
theorem test_wf_refuses_set_flags_against_offset :
    (Instr.set noFlags (some 0x400#24) (.abs 0#32)).wf = false := by decide
theorem test_wf_refuses_clear_flags_against_offset :
    (Instr.clear threeFlags (some 0x440#24) (.abs 0#32)).wf = false := by decide
theorem test_wf_accepts_set_flags_as_offset :
    (Instr.set threeFlags (some 0x448#24) (.abs 0#32)).wf = true := by decide

/-! ### Every constructor's encoding, field by field (30_encoding R132 to R137) -/

/-- A word from its fields, each a width and a value, the highest first. -/
def word (fields : List (Nat × Nat)) : Nat := fields.foldl (fun acc f => acc * 2 ^ f.1 + f.2) 0

/-- The bits of an instruction of two words. -/
def two (w0 w1 : Nat) : Nat := w0 + 2 ^ 32 * w1

/-! Block Move: class 00, IND, TBL, OPC (ignored), PH, COUNT (R132). -/

theorem decode_pad : decodeTableWord 32 (word [(32, 0)]) = some (.pad) := by decide
theorem decode_move : decodeTableWord 64 (two (word [(2, 0b00), (1, 0), (1, 0), (1, 0), (3, 0b110),
    (24, 0x123456)]) 0xFFFF2000) = some (.move 6#3 0x123456#24 0xFFFF2000#32) := by decide
theorem decode_move_ind : decodeTableWord 64 (two (word [(2, 0b00), (1, 1), (1, 1), (1, 1), (3, 0b101),
    (24, 0x200)]) 0x3000) = some (.moveInd 5#3 0x200#24 0x3000#32) := by decide
theorem decode_move_tbl : decodeTableWord 64 (two (word [(2, 0b00), (1, 0), (1, 1), (1, 0), (3, 0b010),
    (24, 0xffffff)]) 0xAA000010) = some (.moveTbl 2#3 0x10#24) := by decide

/-! I/O: class 01, OPC, REL, TBL, SATN, ignored, ID, ignored, CARRY, TRG, ignored, ACK, ignored, ATN, ignored
(R133). -/

theorem decode_select : decodeTableWord 64 (two (word [(2, 0b01), (3, 0b000), (1, 0), (1, 0), (1, 1), (4, 0),
    (4, 0x2), (16, 0)]) 0x100) = some (.select true (.direct 2#4) (.abs 0x100#32)) := by decide
theorem decode_select_table_relative : decodeTableWord 64 (two (word [(2, 0b01), (3, 0b000), (1, 1), (1, 1),
    (1, 0), (24, 0xfffff0)]) 0x55FFFFF0) = some (.select false (.table 0xFFFFF0#24) (.rel 0xFFFFF0#24)) := by
    decide
theorem decode_wait_disconnect : decodeTableWord 64 (two (word [(2, 0b01), (3, 0b001), (1, 0), (1, 0), (1, 0),
    (4, 0xf), (4, 0xf), (16, 0xffff)]) 0x1234) = some (.waitDisconnect none (.abs 0x1234#32)) := by decide
theorem decode_wait_reselect : decodeTableWord 64 (two (word [(2, 0b01), (3, 0b010), (1, 1), (1, 0), (1, 0),
    (4, 0), (4, 0), (16, 0)]) 0xFFFFF0) = some (.waitReselect none (.rel 0xFFFFF0#24)) := by decide
theorem decode_set : decodeTableWord 64 (two (word [(2, 0b01), (3, 0b011), (1, 0), (1, 0), (1, 0), (4, 0),
    (4, 0), (5, 0), (1, 1), (1, 0), (2, 0b00), (1, 1), (2, 0b00), (1, 1), (3, 0b000)]) 0x0) = some
    (.set threeFlags none (.abs 0#32)) := by decide
theorem decode_clear : decodeTableWord 64 (two (word [(2, 0b01), (3, 0b100), (1, 0), (1, 0), (1, 0), (4, 0),
    (4, 0), (5, 0), (1, 0), (1, 0), (2, 0b00), (1, 0), (2, 0b00), (1, 0), (3, 0b000)]) 0x100) = some
    (.clear noFlags none (.abs 0x100#32)) := by decide
theorem decode_set_target : decodeTableWord 64 (two (word [(2, 0b01), (3, 0b011), (1, 0), (1, 0), (1, 1),
    (4, 0), (4, 0), (5, 0), (1, 0), (1, 1), (2, 0b00), (1, 0), (2, 0b00), (1, 0), (3, 0b000)]) 0x123) = some
    (.set { noFlags with trg := true } none (.abs 0x123#32)) := by decide

/-! Register ALU: class 01, OPC, OPER, USFBR, A6..A0, IMM, A7, ignored (R134). -/

theorem decode_mov_fs : decodeTableWord 64 (two (word [(2, 0b01), (3, 0b101), (3, 0b000), (1, 0), (7, 0x34),
    (8, 0x81), (1, 0), (7, 0)]) 0x0) = some (.movFs 0x34#8 0x81#8) := by decide
theorem decode_shl_fs : decodeTableWord 64 (two (word [(2, 0b01), (3, 0b101), (3, 0b001), (1, 1), (7, 0x34),
    (8, 0x81), (1, 1), (7, 0)]) 0x0) = some (.shlFs 0xB4#8 0x81#8) := by decide
theorem decode_or_fs : decodeTableWord 64 (two (word [(2, 0b01), (3, 0b101), (3, 0b010), (1, 0), (7, 0x34),
    (8, 0x81), (1, 0), (7, 0)]) 0x0) = some (.orFs 0x34#8 0x81#8) := by decide
theorem decode_xor_fs : decodeTableWord 64 (two (word [(2, 0b01), (3, 0b101), (3, 0b011), (1, 1), (7, 0x34),
    (8, 0x81), (1, 1), (7, 0)]) 0x0) = some (.xorFs 0xB4#8 0x81#8) := by decide
theorem decode_and_fs : decodeTableWord 64 (two (word [(2, 0b01), (3, 0b101), (3, 0b100), (1, 0), (7, 0x34),
    (8, 0x81), (1, 0), (7, 0)]) 0x0) = some (.andFs 0x34#8 0x81#8) := by decide
theorem decode_shr_fs : decodeTableWord 64 (two (word [(2, 0b01), (3, 0b101), (3, 0b101), (1, 1), (7, 0x34),
    (8, 0x81), (1, 1), (7, 0)]) 0x0) = some (.shrFs 0xB4#8 0x81#8) := by decide
theorem decode_add_fs : decodeTableWord 64 (two (word [(2, 0b01), (3, 0b101), (3, 0b110), (1, 0), (7, 0x34),
    (8, 0x81), (1, 0), (7, 0)]) 0x0) = some (.addFs 0x34#8 0x81#8) := by decide
theorem decode_adc_fs : decodeTableWord 64 (two (word [(2, 0b01), (3, 0b101), (3, 0b111), (1, 1), (7, 0x34),
    (8, 0x81), (1, 1), (7, 0x7f)]) 0x0) = some (.adcFs 0xB4#8 0x81#8) := by decide
theorem decode_mov_ts : decodeTableWord 64 (two (word [(2, 0b01), (3, 0b110), (3, 0b000), (1, 0), (7, 0x34),
    (8, 0x81), (1, 1), (7, 0)]) 0x0) = some (.movTs 0xB4#8 0x81#8) := by decide
theorem decode_shl_ts : decodeTableWord 64 (two (word [(2, 0b01), (3, 0b110), (3, 0b001), (1, 1), (7, 0x34),
    (8, 0x81), (1, 0), (7, 0)]) 0x0) = some (.shlTs 0x34#8 0x81#8) := by decide
theorem decode_or_ts : decodeTableWord 64 (two (word [(2, 0b01), (3, 0b110), (3, 0b010), (1, 0), (7, 0x34),
    (8, 0x81), (1, 1), (7, 0)]) 0x0) = some (.orTs 0xB4#8 0x81#8) := by decide
theorem decode_xor_ts : decodeTableWord 64 (two (word [(2, 0b01), (3, 0b110), (3, 0b011), (1, 1), (7, 0x34),
    (8, 0x81), (1, 0), (7, 0)]) 0x0) = some (.xorTs 0x34#8 0x81#8) := by decide
theorem decode_and_ts : decodeTableWord 64 (two (word [(2, 0b01), (3, 0b110), (3, 0b100), (1, 0), (7, 0x34),
    (8, 0x81), (1, 1), (7, 0)]) 0x0) = some (.andTs 0xB4#8 0x81#8) := by decide
theorem decode_shr_ts : decodeTableWord 64 (two (word [(2, 0b01), (3, 0b110), (3, 0b101), (1, 1), (7, 0x34),
    (8, 0x81), (1, 0), (7, 0)]) 0x0) = some (.shrTs 0x34#8 0x81#8) := by decide
theorem decode_add_ts : decodeTableWord 64 (two (word [(2, 0b01), (3, 0b110), (3, 0b110), (1, 0), (7, 0x34),
    (8, 0x81), (1, 1), (7, 0)]) 0x0) = some (.addTs 0xB4#8 0x81#8) := by decide
theorem decode_adc_ts : decodeTableWord 64 (two (word [(2, 0b01), (3, 0b110), (3, 0b111), (1, 1), (7, 0x34),
    (8, 0x81), (1, 0), (7, 0x7f)]) 0x0) = some (.adcTs 0x34#8 0x81#8) := by decide
theorem decode_mov_rm : decodeTableWord 64 (two (word [(2, 0b01), (3, 0b111), (3, 0b000), (1, 0), (7, 0x34),
    (8, 0x81), (1, 0), (7, 0)]) 0x0) = some (.movRm 0x34#8 (.imm 0x81#8)) := by decide
theorem decode_shl_rm : decodeTableWord 64 (two (word [(2, 0b01), (3, 0b111), (3, 0b001), (1, 0), (7, 0x34),
    (8, 0x81), (1, 1), (7, 0)]) 0x0) = some (.shlRm 0xB4#8 (.imm 0x81#8)) := by decide
theorem decode_or_rm : decodeTableWord 64 (two (word [(2, 0b01), (3, 0b111), (3, 0b010), (1, 1), (7, 0x34),
    (8, 0x81), (1, 0), (7, 0)]) 0x0) = some (.orRm 0x34#8 .sfbr) := by decide
theorem decode_xor_rm : decodeTableWord 64 (two (word [(2, 0b01), (3, 0b111), (3, 0b011), (1, 0), (7, 0x34),
    (8, 0x81), (1, 1), (7, 0)]) 0x0) = some (.xorRm 0xB4#8 (.imm 0x81#8)) := by decide
theorem decode_and_rm : decodeTableWord 64 (two (word [(2, 0b01), (3, 0b111), (3, 0b100), (1, 0), (7, 0x34),
    (8, 0x81), (1, 0), (7, 0)]) 0x0) = some (.andRm 0x34#8 (.imm 0x81#8)) := by decide
theorem decode_shr_rm : decodeTableWord 64 (two (word [(2, 0b01), (3, 0b111), (3, 0b101), (1, 1), (7, 0x34),
    (8, 0x81), (1, 1), (7, 0)]) 0x0) = some (.shrRm 0xB4#8 .sfbr) := by decide
theorem decode_add_rm : decodeTableWord 64 (two (word [(2, 0b01), (3, 0b111), (3, 0b110), (1, 0), (7, 0x34),
    (8, 0x81), (1, 0), (7, 0)]) 0x0) = some (.addRm 0x34#8 (.imm 0x81#8)) := by decide
theorem decode_adc_rm : decodeTableWord 64 (two (word [(2, 0b01), (3, 0b111), (3, 0b111), (1, 0), (7, 0x34),
    (8, 0x81), (1, 1), (7, 0x7f)]) 0x0) = some (.adcRm 0xB4#8 (.imm 0x81#8)) := by decide

/-! Transfer Control: class 10, OPC, PH, REL, ignored, CT, FLY, JT, CD, CP, WVP, MASK, DATA (R135). -/

theorem decode_tc_illegal : decodeTableWord 64 (two (word [(2, 0b10), (3, 0b111), (3, 0b000), (1, 0), (1, 0),
    (1, 0), (1, 0), (1, 1), (1, 1), (1, 1), (1, 0), (8, 0), (8, 0)]) 0x0) = some (.tcIllegal 3#2) := by decide
theorem decode_nop : decodeTableWord 64 (two (word [(2, 0b10), (3, 0b000), (3, 0b111), (1, 0), (1, 0), (1, 0),
    (1, 1), (1, 0), (1, 0), (1, 0), (1, 1), (8, 0xff), (8, 0xff)]) 0x1234) = some (.nop) := by decide
theorem decode_jump : decodeTableWord 64 (two (word [(2, 0b10), (3, 0b000), (3, 0b011), (1, 1), (1, 1), (1, 0),
    (1, 1), (1, 1), (1, 1), (1, 1), (1, 1), (8, 0xf), (8, 0x40)]) 0xABFFFFF8) = some
    (.jump { always with cd := true, cp := true, ph := 3#3, mask := 0x0F#8, data := 0x40#8 } (.rel 0xFFFFF8#24))
    := by decide
theorem decode_call : decodeTableWord 64 (two (word [(2, 0b10), (3, 0b001), (3, 0b000), (1, 0), (1, 0), (1, 1),
    (1, 0), (1, 1), (1, 0), (1, 0), (1, 0), (8, 0), (8, 0)]) 0x3000) = some (.call ifCarry (.abs 0x3000#32)) :=
    by decide
theorem decode_ret : decodeTableWord 64 (two (word [(2, 0b10), (3, 0b010), (3, 0b000), (1, 0), (1, 0), (1, 0),
    (1, 0), (1, 0), (1, 0), (1, 1), (1, 0), (8, 0), (8, 0)]) 0x9999) = some (.ret { nopCond with cp := true })
    := by decide
theorem decode_int : decodeTableWord 64 (two (word [(2, 0b10), (3, 0b011), (3, 0b000), (1, 0), (1, 0), (1, 0),
    (1, 0), (1, 1), (1, 0), (1, 0), (1, 0), (8, 0), (8, 0)]) 0xABCD) = some (.int always 0xABCD#32) := by decide
theorem decode_intfly : decodeTableWord 64 (two (word [(2, 0b10), (3, 0b011), (3, 0b000), (1, 0), (1, 0),
    (1, 0), (1, 1), (1, 1), (1, 0), (1, 0), (1, 0), (8, 0), (8, 0)]) 0xABCD) = some (.intfly always 0xABCD#32)
    := by decide

/-! Memory Move: class 11, 0, ignored, COUNT; Load/Store: class 11, 1, DSAREL, ignored, LOAD, REG, ignored, N
(R136, R137). -/

theorem decode_move_memory : decodeTableWord 96 (two (word [(2, 0b11), (1, 0), (5, 0x1f), (24, 0x2)]) 0x60 + 2 ^
    64 * 0x3000) = some (.moveMemory 2#24 0x60#32 0x3000#32) := by decide
theorem decode_load : decodeTableWord 64 (two (word [(2, 0b11), (1, 1), (1, 1), (3, 0b000), (1, 1), (8, 0x34),
    (13, 0), (3, 0b100)]) 0x20) = some (.load 0x34#8 4#3 (.dsaRel 0x20#24)) := by decide
theorem decode_store : decodeTableWord 64 (two (word [(2, 0b11), (1, 1), (1, 0), (3, 0b111), (1, 0), (8, 0xfe),
    (13, 0x1fff), (3, 0b111)]) 0xFF005000) = some (.store 0xFE#8 7#3 (.abs 0xFF005000#32)) := by decide

theorem test_decode_rejects_cut_instruction : decode [0x00#8, 0x00#8, 0x08#8, 0x80#8] = .error .noSecondWord := by rfl

/-! ### One step of every instruction (95_test_vectors, part 2) -/

/-- Is the outcome a next state that satisfies `p`? -/
def nextWith (o : Host.Outcome State Fault Refusal) (p : State → Bool) : Bool :=
  match o with
  | .next t => p t
  | .fault _ => false
  | .refused _ => false

/-- Reset with the script pointer at 0x1000: the start of a vector of one instruction. -/
def base : State := { State.reset with dsp := 0x1000#32 }

/-- One step from `s` with this instruction (two words) at `dsp`. -/
def run (w0 w1 : Nat) (s : State) (p : State → Bool) : Bool :=
  nextWith (step (s.withFetchWord 64 (two w0 w1))) p

/-- `s` with these bytes in guest memory. -/
def withBytes (a : Word) (bs : List Byte) (s : State) : State := { s with mem := s.mem.store a bs }

/-- `base` in a phase. -/
def inPhase (p : Phase) : State := { base with phase := p }

/-- V-D1. -/
theorem test_pad : nextWith (step (base.withFetchWord 32 0)) (fun t =>
      t.dsp == 0x1004#32 && t.dsps == 0#32 && t.dcmd == 0x40#8 && t.icount == 1) = true := by decide
/-- V-T34. -/
theorem test_nop_keeps_dsp : run 0x8711FFFF 0x1234 base (fun t =>
      t.dsp == 0x1008#32 && t.dsps == 0x1234#32 && t.dcmd == 0x87#8) = true := by decide
/-- V-T36. -/
theorem test_nop_passes_timeout : run 0x80000000 0x0 { base with sist1 := 4#3 } (fun t =>
      !t.sstop) = true := by decide
/-- V-T32. -/
theorem test_tc_illegal : run 0xB80F0000 0x0 base (fun t =>
      t.dstat == 0x01#7 && t.sstop && t.dcmd == 0xB8#8 && t.dsp == 0x1008#32) = true := by decide
/-- V-T37. -/
theorem test_tc_illegal_before_timeout : run 0xA0000000 0x0 { base with sist1 := 4#3 } (fun t =>
      t.dstat == 0x01#7 && t.sstop) = true := by decide

/-! Block Moves. -/

/-- V-B1. -/
theorem test_move_message_out : run 0x0E000001 0x2000
    (withBytes 0x2000#32 [0x80#8] (inPhase .msgOut)) (fun t =>
      t.sfbr == 0x80#8 && t.currentLun == 0#3 && t.phase == .command && t.dbc == 0#24 &&
      t.dnad == 0x2001#32 && t.rbc == 1#24) = true := by decide
/-- V-B8. -/
theorem test_move_status_count_zero : run 0x03000000 0x2100
    { inPhase .status with status := 0x02#8 } (fun t =>
      t.mem.byte 0x2100#32 == 0x02#8 && t.sfbr == 0x02#8 && t.dnad == 0x2101#32 && t.phase == .msgIn &&
      t.msg == [0x00#8] && t.msgAction == .disconnect && t.rbc == 0#24) = true := by decide
/-- V-B6. -/
theorem test_move_indirect_mismatch : run 0x24000010 0x3000
    (withBytes 0x3000#32 [0x00#8, 0x90#8] { inPhase .status with dnad := 0x77#32 }) (fun t =>
      t.sist0 == 0x80#8 && t.sstop && t.dbc == 0x10#24 && t.dnad == 0x77#32) = true := by decide
/-- V-E12 through a pointer (41_block_move R182, 46_phase_engine R299). -/
theorem test_move_indirect_message_in : run 0x27000001 0x3000
    (withBytes 0x3000#32 [0x00#8, 0x20#8] { inPhase .msgIn with msg := [0x07#8, 0x00#8] }) (fun t =>
      t.mem.byte 0x2000#32 == 0x07#8 && t.sfbr == 0x07#8 && t.sidl == 0x07#8 && t.msg == [0x00#8] &&
      t.phase == .msgIn) = true := by decide
/-- V-B4, with the ignored byte of V-B3. -/
theorem test_move_table_message_in : run 0x17000000 0xFFFFF8 (withBytes 0xFFF8#32
    [0x01#8, 0x00#8, 0x00#8, 0xEE#8, 0x00#8, 0x50#8] { inPhase .msgIn with
      msg := [0x00#8], msgAction := .disconnect, scntl1 := 0x10#8, dsa := 0x10000#32 }) (fun t =>
      t.dnad == 0x5001#32 && t.dbc == 0#24 && t.msg == [] && t.scntl1 == 0x00#8 && t.phase == .dataOut) = true := by decide
/-- S4, with part of the request left (46_phase_engine R296). -/
theorem test_move_table_data_in : run 0x11000000 0x18 (withBytes 0x20018#32
    [0x02#8, 0x00#8, 0x00#8, 0x00#8, 0x00#8, 0x60#8] { inPhase .dataIn with
      dsa := 0x20000#32
      request := some { id := 2#4, buf := [0xA0#8, 0xA1#8, 0xA2#8], pos := 0, dir := .input } }) (fun t =>
      t.mem.byte 0x6000#32 == 0xA0#8 && t.mem.byte 0x6001#32 == 0xA1#8 &&
      t.mem.byte 0x6002#32 == 0x00#8 && t.dbc == 0#24 && t.dnad == 0x6002#32 && t.phase == .dataIn) = true := by decide

/-! I/O instructions; the device model answers "present" for id 2 only. -/

/-- V-I1. -/
theorem test_select_present : run 0x41020000 0x100
    { base with io := { ExtPort.reset with presentIn := [true] } } (fun t =>
      t.sdid == 2#4 && t.selAtn && t.sstat0 == 0x04#8 && t.scntl1 == 0x10#8 && t.socl == 0x08#8 &&
      t.phase == .msgOut && t.dnad == 0x100#32 && t.dsp == 0x1008#32) = true := by decide
/-- V-I2. -/
theorem test_select_absent : run 0x40050000 0x100
    { base with io := { ExtPort.reset with presentIn := [false] } } (fun t =>
      t.sdid == 5#4 && t.sist1 == 4#3 && t.scntl1 == 0x00#8 && t.phase == .dataOut && !t.sstop &&
      !t.irq && t.dsp == 0x1008#32) = true := by decide
/-- V-I6. -/
theorem test_wait_disconnect : run 0x48000000 0x0
    { inPhase .msgIn with scntl1 := 0x10#8, dnad := 1#32 } (fun t =>
      t.scntl1 == 0x00#8 && t.phase == .dataOut && t.dnad == 0#32 && t.waiting == .running) = true := by decide
/-- V-I7. -/
theorem test_wait_reselect : run 0x54000000 0xFFFFF0 base (fun t =>
      t.waiting == .reselect && t.dnad == 0xFF8#32 && t.dsp == 0x1008#32 && !t.inRun) = true := by decide
/-- V-I9. -/
theorem test_set_flags : run 0x58000448 0x0 base (fun t =>
      t.socl == 0x48#8 && t.carry && t.phase == .msgOut) = true := by decide
/-- V-I10. -/
theorem test_set_target : run 0x58000200 0x123 base (fun t =>
      t.dnad == 0x123#32 && t.socl == 0#8 && !t.carry && t.phase == .dataOut) = true := by decide
/-- V-I11. -/
theorem test_clear_flags : run 0x60000448 0x0 { inPhase .msgOut with socl := 0xFF#8, carry := true } (fun t =>
      t.socl == 0xB7#8 && !t.carry && t.phase == .msgOut) = true := by decide

/-! The register ALU: the table V-A1, then the corner cases V-A3 and the register cases V-A4. -/

/-- The start state of V-A1: `sfbr` 0xC3, SCRATCHA lane 0 0x7E, carry 1. -/
def aluStart : State := { base with sfbr := 0xC3#8, carry := true, scratch := State.reset.scratch.set 0 0x7E#32 }

/-- The first operand `a` in SCRATCHA lane 0, and the carry. -/
def aluWith (a : Byte) (c : Bool) : State :=
  { base with carry := c, scratch := State.reset.scratch.set 0 (a.setWidth 32) }

theorem test_mov_fs : run 0x68348100 0 aluStart (fun t =>
      t.scratch[0] == 0x81#32 && t.sfbr == 0xC3#8 && t.carry) = true := by decide
theorem test_mov_ts : run 0x70348100 0 aluStart (fun t =>
      t.sfbr == 0x81#8 && t.scratch[0] == 0x7E#32 && t.carry) = true := by decide
theorem test_mov_rm : run 0x78348100 0 aluStart (fun t =>
      t.scratch[0] == 0x81#32 && t.sfbr == 0xC3#8 && t.carry) = true := by decide
theorem test_shl_fs : run 0x69348100 0 aluStart (fun t =>
      t.scratch[0] == 0x87#32 && t.sfbr == 0xC3#8 && t.carry) = true := by decide
theorem test_shl_ts : run 0x71348100 0 aluStart (fun t =>
      t.sfbr == 0xFD#8 && t.scratch[0] == 0x7E#32 && !t.carry) = true := by decide
theorem test_shl_rm : run 0x79348100 0 aluStart (fun t =>
      t.scratch[0] == 0xFD#32 && t.sfbr == 0xC3#8 && !t.carry) = true := by decide
theorem test_or_fs : run 0x6A348100 0 aluStart (fun t =>
      t.scratch[0] == 0xC3#32 && t.sfbr == 0xC3#8 && t.carry) = true := by decide
theorem test_or_ts : run 0x72348100 0 aluStart (fun t =>
      t.sfbr == 0xFF#8 && t.scratch[0] == 0x7E#32 && t.carry) = true := by decide
theorem test_or_rm : run 0x7A348100 0 aluStart (fun t =>
      t.scratch[0] == 0xFF#32 && t.sfbr == 0xC3#8 && t.carry) = true := by decide
theorem test_xor_fs : run 0x6B348100 0 aluStart (fun t =>
      t.scratch[0] == 0x42#32 && t.sfbr == 0xC3#8 && t.carry) = true := by decide
theorem test_xor_ts : run 0x73348100 0 aluStart (fun t =>
      t.sfbr == 0xFF#8 && t.scratch[0] == 0x7E#32 && t.carry) = true := by decide
theorem test_xor_rm : run 0x7B348100 0 aluStart (fun t =>
      t.scratch[0] == 0xFF#32 && t.sfbr == 0xC3#8 && t.carry) = true := by decide
theorem test_and_fs : run 0x6C348100 0 aluStart (fun t =>
      t.scratch[0] == 0x81#32 && t.sfbr == 0xC3#8 && t.carry) = true := by decide
theorem test_and_ts : run 0x74348100 0 aluStart (fun t =>
      t.sfbr == 0x00#8 && t.scratch[0] == 0x7E#32 && t.carry) = true := by decide
theorem test_and_rm : run 0x7C348100 0 aluStart (fun t =>
      t.scratch[0] == 0x00#32 && t.sfbr == 0xC3#8 && t.carry) = true := by decide
theorem test_shr_fs : run 0x6D348100 0 aluStart (fun t =>
      t.scratch[0] == 0xE1#32 && t.sfbr == 0xC3#8 && t.carry) = true := by decide
theorem test_shr_ts : run 0x75348100 0 aluStart (fun t =>
      t.sfbr == 0xBF#8 && t.scratch[0] == 0x7E#32 && !t.carry) = true := by decide
theorem test_shr_rm : run 0x7D348100 0 aluStart (fun t =>
      t.scratch[0] == 0xBF#32 && t.sfbr == 0xC3#8 && !t.carry) = true := by decide
theorem test_add_fs : run 0x6E348100 0 aluStart (fun t =>
      t.scratch[0] == 0x44#32 && t.sfbr == 0xC3#8 && t.carry) = true := by decide
theorem test_add_ts : run 0x76348100 0 aluStart (fun t =>
      t.sfbr == 0xFF#8 && t.scratch[0] == 0x7E#32 && !t.carry) = true := by decide
theorem test_add_rm : run 0x7E348100 0 aluStart (fun t =>
      t.scratch[0] == 0xFF#32 && t.sfbr == 0xC3#8 && !t.carry) = true := by decide
theorem test_adc_fs : run 0x6F348100 0 aluStart (fun t =>
      t.scratch[0] == 0x45#32 && t.sfbr == 0xC3#8 && t.carry) = true := by decide
theorem test_adc_ts : run 0x77348100 0 aluStart (fun t =>
      t.sfbr == 0x00#8 && t.scratch[0] == 0x7E#32 && t.carry) = true := by decide
theorem test_adc_rm : run 0x7F348100 0 aluStart (fun t =>
      t.scratch[0] == 0x00#32 && t.sfbr == 0xC3#8 && t.carry) = true := by decide
/-- V-A2. -/
theorem test_xor_rm_sfbr : run 0x7BB48100 0x0 aluStart (fun t =>
      t.scratch[0] == 0xBD#32 && t.carry) = true := by decide
/-- V-A2. -/
theorem test_adc_rm_sfbr : run 0x7FB48100 0x0 aluStart (fun t =>
      t.scratch[0] == 0x42#32 && t.carry) = true := by decide
/-- V-A3. -/
theorem test_add_ts_ignores_carry_in : run 0x76340000 0x0 (aluWith 0x00#8 true) (fun t =>
      t.sfbr == 0x00#8 && !t.carry) = true := by decide
/-- V-A3. -/
theorem test_add_rm_carries : run 0x7E348000 0x0 (aluWith 0x80#8 false) (fun t =>
      t.scratch[0] == 0x00#32 && t.carry) = true := by decide
/-- V-A3. -/
theorem test_adc_ts_with_carry_in : run 0x7734FF00 0x0 (aluWith 0xFF#8 true) (fun t =>
      t.sfbr == 0xFF#8 && t.carry) = true := by decide
/-- V-A3. -/
theorem test_shl_ts_top_bit : run 0x71340000 0x0 (aluWith 0x80#8 true) (fun t =>
      t.sfbr == 0x01#8 && t.carry) = true := by decide
/-- V-A3. -/
theorem test_shr_ts_low_bit : run 0x75340000 0x0 (aluWith 0x01#8 true) (fun t =>
      t.sfbr == 0x80#8 && t.carry) = true := by decide
/-- V-A4. -/
theorem test_mov_rm_computed_jump : run 0x782F1200 0x0 base (fun t =>
      t.dsp == 0x12001008#32) = true := by decide
/-- V-A4. -/
theorem test_mov_ts_does_not_read : run 0x70428100 0x0 { base with sist0 := 0x80#8 } (fun t =>
      t.sfbr == 0x81#8 && t.sist0 == 0x80#8) = true := by decide
/-- V-A4. -/
theorem test_or_ts_reads_and_clears : run 0x72420000 0x0 { base with sist0 := 0x80#8 } (fun t =>
      t.sfbr == 0x80#8 && t.sist0 == 0x00#8) = true := by decide

/-! Transfer Control. -/

/-- V-T19. -/
theorem test_jump_not_both_one_true : run 0x83060000 0x2000 { inPhase .status with sfbr := 0x02#8 } (fun t =>
      t.dsp == 0x1008#32) = true := by decide
/-- V-T26. -/
theorem test_call : run 0x88080000 0x3000 base (fun t =>
      t.temp == 0x1008#32 && t.dsp == 0x3000#32) = true := by decide
/-- V-T27. -/
theorem test_call_not_taken : run 0x88280000 0x3000 { base with temp := 0x55#32 } (fun t =>
      t.temp == 0x55#32 && t.dsp == 0x1008#32) = true := by decide
/-- V-T28. -/
theorem test_return : run 0x90080000 0x0 { base with temp := 0x1234#32 } (fun t =>
      t.dsp == 0x1234#32 && t.temp == 0x1234#32) = true := by decide
/-- V-T29. -/
theorem test_int : run 0x98080000 0xABCD { base with dien := 0x04#7 } (fun t =>
      t.dstat == 0x04#7 && t.sstop && t.dsps == 0xABCD#32 && t.dsp == 0x1008#32 && t.irq) = true := by decide
/-- V-T31. -/
theorem test_int_not_taken : run 0x98280000 0xABCD base (fun t =>
      t.dstat == 0x00#7 && !t.sstop) = true := by decide
/-- V-T30. -/
theorem test_intfly : run 0x98180000 0xABCD base (fun t =>
      t.intf && t.irq && !t.sstop && t.dstat == 0#7 && (regRead 0x14#8 t).1 == 0x04#8) = true := by decide
/-- V-T38. -/
theorem test_jump_relative_wraps : run 0x80880000 0x10 { base with dsp := 0xFFFFFFF8#32 } (fun t =>
      t.dsp == 0x10#32) = true := by decide
/-- V-T18, on INTFLY. -/
theorem test_intfly_two_tests_one_false : run 0x9B1E0000 0x0 { inPhase .status with sfbr := 0x02#8 } (fun t =>
      !t.intf && t.dsp == 0x1008#32) = true := by decide
/-- V-T35, on RETURN. -/
theorem test_return_delayed_stop : run 0x90080000 0x0 { base with sist1 := 4#3, temp := 0x1234#32 } (fun t =>
      t.sstop && t.dsp == 0x1008#32) = true := by decide

/-! Memory Move, Load and Store. -/

/-- V-M2. -/
theorem test_move_memory_overlap : nextWith (step ((withBytes 0x2000#32
      [1#8, 2#8, 3#8, 4#8, 5#8, 6#8] base).withFetchWord 96 (two 0xC0000004 0x2000 + 2 ^ 64 * 0x2002)))
    (fun t => t.mem.bytes 0x2000#32 6 == [1#8, 2#8, 1#8, 2#8, 3#8, 4#8] && t.dsp == 0x100C#32 &&
      t.dsps == 0x2000#32 && t.dbc == 0#24) = true := by decide
/-- V-M4. -/
theorem test_move_memory_from_ports : nextWith (step ({ base with
      dmode := 0x20#8, io := { ExtPort.reset with portIn := [0xAB#8, 0xCD#8] } }.withFetchWord 96
        (two 0xDF000002 0x60 + 2 ^ 64 * 0x3000)))
    (fun t => t.mem.bytes 0x3000#32 2 == [0xAB#8, 0xCD#8] &&
      t.io.trace == [.portRead 0x61#16 0xCD#8, .portRead 0x60#16 0xAB#8]) = true := by decide
/-- V-L4. -/
theorem test_load_four_registers : run 0xF1100004 0xFFFFF0 (withBytes 0xFFF0#32
    [0xDE#8, 0xAD#8, 0xBE#8, 0xEF#8] { base with dsa := 0x10000#32 }) (fun t =>
      t.dsa == 0xEFBEADDE#32) = true := by decide
/-- V-L2, its last three registers. -/
theorem test_load_masked_register : run 0xE1380003 0x5000
    (withBytes 0x5000#32 [0x55#8, 0x66#8, 0x77#8] base) (fun t =>
      t.dmode == 0x55#8 && t.dien == 0x64#7 && t.storage.sbr == 0x77#8) = true := by decide
/-- V-S2. -/
theorem test_store_reads_causes : run 0xE0420002 0x5000
    { base with sist0 := 0x80#8, sist1 := 4#3, sien0 := 0x80#8, irq := true } (fun t =>
      t.mem.bytes 0x5000#32 2 == [0x80#8, 0x04#8] && t.sist0 == 0#8 && t.sist1 == 0#3 && !t.irq) = true := by decide
/-- V-S6. -/
theorem test_store_wraps_offsets : run 0xE0FE0003 0x5000 base (fun t =>
      t.mem.bytes 0x5000#32 3 == [0x00#8, 0x00#8, 0xC0#8]) = true := by decide

/-! ### The host's accesses and the run loop -/

/-- The state after one bank write. -/
def written (off b : Byte) (s : State) : State := regWrite off b s

/-- V-R8. -/
theorem test_scntl1_reset_bit : (written 0x01#8 0x08#8 State.reset).sist0 = 0x02#8 ∧
    (written 0x01#8 0x08#8 State.reset).sstat0 = 0x02#8 ∧
    (written 0x01#8 0x00#8 (written 0x01#8 0x08#8 State.reset)).sstat0 = 0x00#8 := by decide
/-- V-R6. -/
theorem test_istat_abort : (written 0x14#8 0x80#8 State.reset).dstat = 0x10#7 ∧
    (regRead 0x14#8 (written 0x14#8 0x80#8 State.reset)).1 = 0x81#8 := by decide
/-- V-I7: SIGP wakes the waiting interpreter. -/
theorem test_sigp_wakes :
    (written 0x14#8 0x20#8 { base with waiting := .reselect, dnad := 0xFF8#32 }).dsp = 0xFF8#32 := by decide
/-- V-D9, V-D10. -/
theorem test_start_by_top_lane : (written 0x2E#8 0#8 State.reset).sstop = true ∧
    (written 0x2F#8 0#8 State.reset).sstop = false ∧
    (written 0x2F#8 0#8 { State.reset with dmode := 1#8 }).sstop = true ∧
    (written 0x3B#8 4#8 { State.reset with dmode := 1#8 }).sstop = false := by decide
/-- V-D8. -/
theorem test_single_step : run 0x80880000 0x00FFFFF8 { base with dcntl := 0x10#8 } (fun t =>
      t.dstat == 0x08#7 && t.sstop && !t.inRun && t.dsp == 0x1000#32) = true := by decide
/-- V-D3: the 10001st fetch. -/
theorem test_budget : nextWith (step { base.withFetchWord 64 (two 0x80880000 0x00FFFFF8) with icount := 10000 })
    (fun t => t.sist0 == 0x04#8 && t.sstop && !t.inRun && t.icount == 10001 && t.dsp == 0x1000#32) = true := by
  decide
/-- V-D5: the 10000th fetch is within the budget. -/
theorem test_within_budget : nextWith (step { base.withFetchWord 64 (two 0x80880000 0x00FFFFF8) with icount := 9999 })
    (fun t => t.sist0 == 0x00#8 && !t.sstop && t.inRun) = true := by decide

/-! ### The hypotheses of every statement are met (one theorem a statement, each clause at a boundary) -/

/-- A program step at `base` for the statements about a step of an activation. -/
def placed : State := base.withFetchWord 64 (two 0x80080000 0x2000)

/-- A condition on phase and data at once, JT = 0. -/
def ifNeither : Cond := { nopCond with cp := true, cd := true, ph := 3#3, data := 0x40#8, mask := 0x0F#8 }

/-- A request of four bytes, none yet moved. -/
def fourBytes (d : Direction) : Request := { id := 2#4, buf := [1#8, 2#8, 3#8, 4#8], pos := 0, dir := d }

theorem witness_DecodeInvertsEncode :
    (Instr.set threeFlags (some 0xFFFFFF#24) (.rel 0x800000#24)).wf = false ∧
    (Instr.set { threeFlags with trg := true } (some 0xFFFFFF#24) (.rel 0x800000#24)).wf = true ∧
    (Instr.int ifCarry 0xFFFFFFFF#32).wf = true ∧ (Instr.store 0xFF#8 7#3 (.dsaRel 0#24)).wf = true := by decide

theorem witness_IgnoredBitsDoNotMatter :
    decodeWords 0x06000001#32 0x2000#32 0#32 = .move 6#3 1#24 0x2000#32 ∧
    0x0E000001#32 &&& firstMask (.move 6#3 1#24 0x2000#32) =
      0x06000001#32 &&& firstMask (.move 6#3 1#24 0x2000#32) ∧
    0x2000#32 &&& secondMask (.move 6#3 1#24 0x2000#32) = 0x2000#32 &&& secondMask (.move 6#3 1#24 0x2000#32) ∧
    0xFFFFFFFF#32 &&& thirdMask (.move 6#3 1#24 0x2000#32) = 0#32 &&& thirdMask (.move 6#3 1#24 0x2000#32) := by
  decide

theorem witness_StepRunsDecodedInstruction :
    placed.inRun = true ∧ placed.sstop = false ∧ placed.waiting = .running ∧
    decode (placed.mem.bytes placed.dsp 12) = .ok (.jump always (.abs 0x2000#32), [0#8, 0#8, 0#8, 0#8]) :=
  ⟨rfl, rfl, rfl, rfl⟩

theorem witness_PlacedInstructionRuns : MemoryCanonical base ∧
    decodeTableWord 96 (two 0xC0000004 0x2000 + 2 ^ 64 * 0x3000) = some (.moveMemory 4#24 0x2000#32 0x3000#32) :=
  ⟨rfl, by decide⟩

/-- Running, stopped, waiting. -/
theorem witness_TickStartsActivation :
    (∃ s : State, ∃ rest, s.inRun = false ∧ s.inbox = .tick :: rest ∧ s.sstop = false ∧ s.waiting = .running) ∧
    (∃ s : State, ∃ rest, s.inRun = false ∧ s.inbox = .tick :: rest ∧ s.sstop = true) ∧
    (∃ s : State, ∃ rest, s.inRun = false ∧ s.inbox = .tick :: rest ∧ s.sstop = false ∧ s.waiting ≠ .running) :=
  ⟨⟨{ State.reset with sstop := false, inbox := [.tick] }, [], by decide⟩,
    ⟨{ State.reset with inbox := [.tick] }, [], by decide⟩,
    ⟨{ State.reset with sstop := false, waiting := .reselect, inbox := [.tick] }, [], by decide⟩⟩

/-- The budget overrun at its boundary, a stop, single step, a yield, the loop going on. -/
theorem witness_RunLoopChecks :
    (∃ s t : State, s.inRun = true ∧ s.sstop = false ∧ s.waiting = .running ∧
      exec (fetchInstr s) (fetched s) = .next t ∧ 10000 < t.icount ∧ t.waiting = .running) ∧
    (∃ s t : State, s.inRun = true ∧ s.sstop = false ∧ s.waiting = .running ∧
      exec (fetchInstr s) (fetched s) = .next t ∧ t.icount = 10000 ∧ t.sstop = false) ∧
    (∃ s t : State, s.inRun = true ∧ s.sstop = false ∧ s.waiting = .running ∧
      exec (fetchInstr s) (fetched s) = .next t ∧ t.sstop = true) ∧
    (∃ s t : State, s.inRun = true ∧ s.sstop = false ∧ s.waiting = .running ∧
      exec (fetchInstr s) (fetched s) = .next t ∧ t.waiting ≠ .running) ∧
    (∃ s t : State, s.inRun = true ∧ s.sstop = false ∧ s.waiting = .running ∧
      exec (fetchInstr s) (fetched s) = .next t ∧ t.sstop = false ∧ t.dcntl.getLsbD 4 = true) ∧
    (∃ s t : State, s.inRun = true ∧ s.sstop = false ∧ s.waiting = .running ∧
      exec (fetchInstr s) (fetched s) = .next t ∧ t.sstop = false ∧ t.yield = true) :=
  ⟨⟨{ placed with icount := 10000 }, _, rfl, rfl, rfl, rfl, by decide, rfl⟩,
    ⟨{ placed with icount := 9999 }, _, rfl, rfl, rfl, rfl, rfl, rfl⟩,
    ⟨base.withFetchWord 64 0xA0000000, _, rfl, rfl, rfl, rfl, rfl⟩,
    ⟨base.withFetchWord 64 0x50000000, _, rfl, rfl, rfl, rfl, by decide⟩,
    ⟨{ placed with dcntl := 0x10#8 }, _, rfl, rfl, rfl, rfl, rfl, rfl⟩,
    ⟨{ placed with yield := true }, _, rfl, rfl, rfl, rfl, rfl, rfl⟩⟩

/-- A restart by each of the two writes. -/
theorem witness_OnlyStartRestarts :
    (∃ s t : State, step s = .next t ∧ s.sstop = true ∧ t.sstop = false) ∧
    (∃ s t : State, step s = .next t ∧ s.sstop = true ∧ t.sstop = false ∧ s.dmode.getLsbD 0 = true) :=
  ⟨⟨{ State.reset with inbox := [.write 0x2F#8 0#8] }, _, rfl, rfl, rfl⟩,
    ⟨{ State.reset with dmode := 1#8, inbox := [.write 0x3B#8 4#8] }, _, rfl, rfl, rfl, rfl⟩⟩

theorem witness_ActivationsShutTheHostOut :
    ∃ s t : State, s.inRun = true ∧ step s = .next t ∧ s.inbox = [.reset] :=
  ⟨{ placed with inbox := [.reset] }, _, rfl, rfl, rfl⟩

/-- A write, a read and a store, at the ends of their ranges. -/
theorem witness_HostAccessesUseTheBank : State.reset.inRun = false ∧
    ({ State.reset with inbox := [.write 0xFF#8 1#8] }).inbox = .write 0xFF#8 1#8 :: [] ∧
    ({ State.reset with inbox := [.read 0#8] }).inbox = .read 0#8 :: [] ∧
    ({ State.reset with inbox := [.memStore 0xFFFFFFFF#32 1#8] }).inbox = .memStore 0xFFFFFFFF#32 1#8 :: [] ∧
    MemoryCanonical { State.reset with inbox := [.memStore 0xFFFFFFFF#32 1#8] } :=
  ⟨rfl, rfl, rfl, rfl, rfl⟩

theorem witness_StepKeepsMemoryCanonical : ∃ t, MemoryCanonical placed ∧ step placed = .next t :=
  ⟨_, rfl, rfl⟩

theorem witness_StepKeepsLineOfCauses : ∃ s t, LineFollowsCauses s ∧ step s = .next t ∧ t.irq = true :=
  ⟨State.withFetchWord { base with dien := 1#7 } 64 0xA0000000, _, rfl, rfl, rfl⟩

theorem witness_StepKeepsProtocolBounds : ∃ s t, ProtocolBounds s ∧ step s = .next t ∧ s.msg.length = 8 :=
  ⟨{ placed with
      msg := [0#8, 1#8, 2#8, 3#8, 4#8, 5#8, 6#8, 7#8]
      request := some { fourBytes .input with pos := 4 } }, _,
    { messages := by decide, waiting := by decide, request := fun r h => by cases h; decide }, rfl, rfl⟩

theorem witness_StepKeepsRequestDirection : ∃ s t, RequestMatchesPhase s ∧ step s = .next t ∧
    s.request = some (fourBytes .input) ∧ s.phase = .dataIn :=
  ⟨{ placed with request := some (fourBytes .input), phase := .dataIn }, _,
    { action := .inl rfl
      out := fun h => by cases h
      inp := fun _ r h => by cases h; rfl }, rfl, rfl, rfl⟩

theorem witness_StepKeepsReservedBits : ∃ s t, ReservedBitsClear s ∧ step s = .next t ∧ s.dcntl = 0xBB#8 :=
  ⟨{ placed with dcntl := 0xBB#8, dien := 0x7D#7, scntl1 := 0xFE#8 }, _,
    { scntl1 := rfl, scntl2 := rfl, sstat0 := rfl, dien := rfl, dcntl := rfl, sist0 := rfl, sist1 := rfl,
      dstat := rfl }, rfl, rfl⟩

theorem witness_StepKeepsWithinBudget : ∃ s t, WithinBudget s ∧ step s = .next t ∧ s.icount = 10000 :=
  ⟨{ placed with icount := 10000 }, _, fun _ => by decide, rfl, rfl⟩

theorem witness_HardResetSetsEveryElement :
    ∃ (s : State) (rest : List HostEvent), s.inRun = false ∧ s.inbox = .reset :: rest ∧ s.sist0 ≠ 0#8 :=
  ⟨{ State.reset with inbox := [.reset], sist0 := 1#8 }, [], by decide⟩

/-- PLAIN, LANE and MASKED offsets at the ends of their ranges, and an offset of another class. -/
theorem witness_WriteThenReadBack : storedMask 0x00#8 = some 0xFF#8 ∧ storedMask 0x4F#8 = some 0xFF#8 ∧
    storedMask 0x10#8 = some 0xFF#8 ∧ storedMask 0x7F#8 = some 0xFF#8 ∧ storedMask 0x02#8 = some 0xF6#8 ∧
    storedMask 0x41#8 = some 0x07#8 ∧ storedMask 0x01#8 = none ∧ storedMask 0xFF#8 = none := by decide

theorem witness_BankWriteTouchesOneByte : storedMask 0x37#8 = some 0xFF#8 ∧ (0x36#8 : Byte) ≠ 0x37#8 ∧
    storedMask 0x2F#8 = some 0xFF#8 ∧ storedMask 0x41#8 = some 0x07#8 ∧ (0x40#8 : Byte) ≠ 0x41#8 := by decide

theorem witness_BankReadEffects : (0x1A#8 : Byte) ∈ [0x1A#8, 0x42#8, 0x43#8, 0x0C#8] ∧
    (0x0C#8 : Byte) ∈ [0x1A#8, 0x42#8, 0x43#8, 0x0C#8] ∧ (0x41#8 : Byte) ∉ [0x1A#8, 0x42#8, 0x43#8, 0x0C#8] := by
  decide

/-- Each class, at the ends of its range. -/
theorem witness_ConstantOffsetsIgnoreWrites :
    ((0x0A#8 : Byte), (0x00#8 : Byte)) ∈ constants ∧ ((0x18#8 : Byte), (0xFF#8 : Byte)) ∈ constants ∧
    ((0x4C#8 : Byte), (0x00#8 : Byte)) ∈ constants ∧ isUnlisted 0x15#8 = true ∧ isUnlisted 0x5B#8 = true ∧
    isUnlisted 0x80#8 = true ∧ isUnlisted 0xFF#8 = true ∧ isUnlisted 0x7F#8 = false := by decide

theorem witness_LiveRegisterReads :
    (∃ s : State, s.phase = .msgIn ∧ s.msg = 7#8 :: []) ∧ (∃ s : State, s.phase = .msgIn ∧ s.msg = []) ∧
    (∃ s : State, s.phase ≠ .msgIn ∧ s.msg ≠ []) :=
  ⟨⟨{ State.reset with phase := .msgIn, msg := [7#8] }, rfl, rfl⟩,
    ⟨{ State.reset with phase := .msgIn }, rfl, rfl⟩, ⟨{ State.reset with msg := [7#8] }, by decide, by decide⟩⟩

theorem witness_BankWriteFrame : (0x13#8 : Byte) ≠ 0x14#8 ∧ (0x15#8 : Byte) ≠ 0x14#8 ∧ (0x00#8 : Byte) ≠ 0x01#8 ∧
    (0x2E#8 : Byte) ∉ [0x01#8, 0x2F#8, 0x3B#8] := by decide

/-- Each cause newly latched by its instruction. -/
theorem witness_CausesHaveTheirSources :
    (∃ s t, exec (.tcIllegal 0#2) s = .next t ∧ s.dstat.getLsbD 0 = false ∧ t.dstat.getLsbD 0 = true) ∧
    (∃ s t, exec (.int always 0#32) s = .next t ∧ s.dstat.getLsbD 2 = false ∧ t.dstat.getLsbD 2 = true) ∧
    (∃ s t, exec (.move 5#3 0#24 0#32) s = .next t ∧ s.sist0.getLsbD 7 = false ∧ t.sist0.getLsbD 7 = true) ∧
    (∃ s t, exec (.select false (.direct 5#4) (.abs 0#32)) s = .next t ∧ s.sist1.getLsbD 2 = false ∧
      t.sist1.getLsbD 2 = true) ∧
    (∃ s t, exec (.move 2#3 6#24 0#32) s = .next t ∧ s.sist1.getLsbD 2 = false ∧ t.sist1.getLsbD 2 = true) ∧
    (∃ s t, exec .nop s = .next t ∧ s.sist0.getLsbD 2 = false ∧ s.dstat.getLsbD 3 = false) :=
  ⟨⟨base, _, rfl, rfl, rfl⟩, ⟨base, _, rfl, rfl, rfl⟩, ⟨base, _, rfl, rfl, rfl⟩,
    ⟨{ base with io := { ExtPort.reset with presentIn := [false] } }, _, rfl, rfl, rfl⟩,
    ⟨{ inPhase .command with io := { ExtPort.reset with presentIn := [false] } }, _, rfl, rfl, rfl⟩,
    ⟨base, _, rfl, rfl, rfl⟩⟩

theorem witness_CarryPersists : ∃ s t, exec (.orRm 0x34#8 .sfbr) s = .next t ∧
    writesCarry (.orRm 0x34#8 .sfbr) = false ∧ writesIstat (.orRm 0x34#8 .sfbr) = false ∧ s.carry = true :=
  ⟨{ base with carry := true }, _, rfl, rfl, rfl, rfl⟩

/-- No test, and two tests with JT = 0 that both fail. -/
theorem witness_TakenTransfers :
    (always.isNop = false ∧ ¬StoPending base ∧ TestsAgree always base) ∧
    (ifNeither.isNop = false ∧ ¬StoPending base ∧ TestsAgree ifNeither base) :=
  ⟨⟨rfl, by unfold StoPending; decide, by unfold TestsAgree; decide⟩,
    ⟨rfl, by unfold StoPending; decide, by unfold TestsAgree; decide⟩⟩

theorem witness_TakenInterrupts :
    (ifCarry.isNop = false ∧ ¬StoPending aluStart ∧ TestsAgree ifCarry aluStart) ∧
    (ifNeither.isNop = false ∧ ¬StoPending base ∧ TestsAgree ifNeither base) :=
  ⟨⟨rfl, by unfold StoPending; decide, by unfold TestsAgree; decide⟩,
    ⟨rfl, by unfold StoPending; decide, by unfold TestsAgree; decide⟩⟩

/-- One failing test, and one of two tests that holds although JT = 0. -/
theorem witness_UntakenFallsThrough :
    (ifCarry.isNop = false ∧ Gated ifCarry (.call ifCarry (.abs 0#32)) ∧ ¬StoPending base ∧
      ¬TestsAgree ifCarry base) ∧
    (ifNeither.isNop = false ∧ Gated ifNeither (.intfly ifNeither 0#32) ∧ ¬StoPending (inPhase .status) ∧
      ¬TestsAgree ifNeither (inPhase .status)) :=
  ⟨⟨rfl, .call _ _, by unfold StoPending; decide, by unfold TestsAgree; decide⟩,
    ⟨rfl, .intfly _ _, by unfold StoPending; decide, by unfold TestsAgree; decide⟩⟩

/-- A gated Transfer Control, and a Block Move. -/
theorem witness_DelayedTimeoutStop : StoPending { base with sist1 := 4#3 } ∧
    (∃ c, c.isNop = false ∧ Gated c (.ret always)) ∧ isBlockMove (.moveTbl 0#3 0#24) = true :=
  ⟨by unfold StoPending; decide, ⟨always, rfl, .ret _⟩, rfl⟩

theorem witness_CallThenReturn : always.isNop = false ∧ ifNeither.isNop = false ∧ ¬StoPending base ∧
    TestsAgree always base ∧ TestsAgree ifNeither base :=
  ⟨rfl, rfl, by unfold StoPending; decide, by unfold TestsAgree; decide, by unfold TestsAgree; decide⟩

/-- Each of the two mode bits, both ways. -/
theorem witness_DmaUnitObeysModeBits : base.dmode.getLsbD 5 = false ∧ base.dmode.getLsbD 4 = false ∧
    ({ base with dmode := 0x20#8 }).dmode.getLsbD 5 = true ∧
    ({ base with dmode := 0x10#8 }).dmode.getLsbD 4 = true := by decide

theorem witness_MoveMemoryCopies : MemoryCanonical base ∧ base.dmode.getLsbD 5 = false ∧
    base.dmode.getLsbD 4 = false ∧ (3 : Nat) < (4#24).toNat ∧ (∀ i < (4#24).toNat,
      (0x3004#32 : Word) ≠ 0x3000#32 + BitVec.ofNat 32 i) := ⟨rfl, rfl, rfl, by decide, by decide⟩

theorem witness_StoreWritesMemory : MemoryCanonical base ∧ (6 : Nat) < (7#3).toNat ∧
    (∀ i < (7#3).toNat, (0x5007#32 : Word) ≠ dataAddress (.abs 0x5000#32) base + BitVec.ofNat 32 i) :=
  ⟨rfl, by decide, by decide⟩

/-- From the first lane of SCRATCHA, and up to the last lane of SCRATCHJ. -/
theorem witness_StoreThenLoadScratch : MemoryCanonical base ∧
    (∀ i < (4#3).toNat, ∃ (j : Fin 10) (k : Fin 4), 0x34#8 + BitVec.ofNat 8 i = scratchOffset j k) ∧
    (∀ i < (7#3).toNat, ∃ (j : Fin 10) (k : Fin 4), 0x79#8 + BitVec.ofNat 8 i = scratchOffset j k) :=
  ⟨rfl, by decide, by decide⟩

theorem witness_OtherInstructionsKeepMemory :
    ∃ s t, exec (.load 0x34#8 7#3 (.abs 0#32)) s = .next t ∧ mayStore (.load 0x34#8 7#3 (.abs 0#32)) = false :=
  ⟨base, _, rfl, rfl⟩

/-- Each form of a Block Move. -/
theorem witness_PhaseMismatchStops :
    BlockMove base (.move 4#3 1#24 0#32) 4#3 1#24 0#32 ∧
    (∃ count addr, BlockMove base (.moveInd 5#3 count 0#32) 5#3 count addr) ∧
    (∃ count addr, BlockMove base (.moveTbl 7#3 0#24) 7#3 count addr) ∧
    ¬StoPending base ∧ base.phase.code ≠ 4#3 ∧ base.phase.code ≠ 5#3 ∧ base.phase.code ≠ 7#3 :=
  ⟨.direct _ _ _, ⟨1#24, _, .indirect _ _ _⟩, ⟨_, _, .table _ _⟩, by unfold StoPending; decide, by decide,
    by decide, by decide⟩

/-- No request; a request with bytes left over; one exhausted with a residual count. -/
theorem witness_DataPhaseMoves :
    (BlockMove base (.move 0#3 1#24 0#32) 0#3 1#24 0#32 ∧ ¬StoPending base ∧ base.phase.code = 0#3 ∧
      base.phase = .dataOut ∧ base.request = none) ∧
    (∃ s r, BlockMove s (.move 0#3 3#24 0#32) 0#3 3#24 0#32 ∧ ¬StoPending s ∧ s.phase.code = 0#3 ∧
      s.phase = .dataOut ∧ s.request = some r ∧ r.dir = .output ∧ r.pos ≤ r.buf.length ∧
      r.pos + min (3#24).toNat (r.buf.length - r.pos) < r.buf.length) ∧
    (∃ s r, BlockMove s (.move 1#3 5#24 0#32) 1#3 5#24 0#32 ∧ ¬StoPending s ∧ s.phase.code = 1#3 ∧
      s.phase = .dataIn ∧ s.request = some r ∧ r.dir = .input ∧ r.pos ≤ r.buf.length ∧
      (5#24).toNat ≠ min (5#24).toNat (r.buf.length - r.pos)) :=
  ⟨⟨.direct _ _ _, by unfold StoPending; decide, rfl, rfl, rfl⟩,
    ⟨{ base with request := some (fourBytes .output) }, _, .direct _ _ _, by unfold StoPending; decide, rfl, rfl,
      rfl, rfl, by decide, by decide⟩,
    ⟨{ inPhase .dataIn with request := some (fourBytes .input) }, _, .direct _ _ _, by unfold StoPending; decide,
      rfl, rfl, rfl, rfl, by decide, by decide⟩⟩

theorem witness_CommandPhaseCompletes :
    BlockMove (inPhase .command) (.move 2#3 13#24 0#32) 2#3 13#24 0#32 ∧ ¬StoPending (inPhase .command) ∧
    (inPhase .command).phase.code = 2#3 ∧ (inPhase .command).phase = .command :=
  ⟨.direct _ _ _, by unfold StoPending; decide, rfl, rfl⟩

theorem witness_StatusPhaseCompletes :
    BlockMove (inPhase .status) (.move 3#3 0#24 0#32) 3#3 0#24 0#32 ∧ ¬StoPending (inPhase .status) ∧
    (inPhase .status).phase.code = 3#3 ∧ (inPhase .status).phase = .status :=
  ⟨.direct _ _ _, by unfold StoPending; decide, rfl, rfl⟩

theorem witness_MessageInCompletes :
    BlockMove (inPhase .msgIn) (.move 7#3 0#24 0#32) 7#3 0#24 0#32 ∧ ¬StoPending (inPhase .msgIn) ∧
    (inPhase .msgIn).phase.code = 7#3 ∧ (inPhase .msgIn).phase = .msgIn :=
  ⟨.direct _ _ _, by unfold StoPending; decide, rfl, rfl⟩

theorem witness_MessageOutCompletes :
    BlockMove (inPhase .msgOut) (.move 6#3 0xFFFFFF#24 0#32) 6#3 0xFFFFFF#24 0#32 ∧
    ¬StoPending (inPhase .msgOut) ∧ (inPhase .msgOut).phase.code = 6#3 ∧ (inPhase .msgOut).phase = .msgOut :=
  ⟨.direct _ _ _, by unfold StoPending; decide, rfl, rfl⟩

theorem witness_RegisterAluFieldsAreRead : 0x68348100#32 >>> 30 = 1#32 ∧ (0x68348100#32).extractLsb' 27 3 = 5#3 ∧
    0x70348100#32 >>> 30 = 1#32 ∧ (0x70348100#32).extractLsb' 27 3 = 6#3 ∧
    0x7FB481FF#32 >>> 30 = 1#32 ∧ (0x7FB481FF#32).extractLsb' 27 3 = 7#3 := by decide

end Sys2Proof.Tests
end

section
/-! SUPPORT. The classes of registers (11_register_bank R53): the ones that ignore a write, the ones that read as
a constant, the ones that give back what was written. Each class is a function of the register, and one lemma
says what the bank does with it. -/

namespace Sys2Proof.Machine

/-! ### Registers that ignore a write -/

/-- The CONST and RO registers and the UNLISTED offsets. -/
def BankReg.ignoresWrite : BankReg → Bool
  | .gpreg | .ssid | .sbcl | .dstat | .sstat0 | .sstat1 | .sstat2 | .ctest0 | .ctest1 | .ctest2 | .ctest6
  | .dcmd | .adder | .sist0 | .sist1 | .macntl | .gpcntl | .stest0 | .sidl | .sbdl | .unlisted => true
  | _ => false

theorem regWriteAt_of_ignoresWrite {r : BankReg} (h : r.ignoresWrite = true) (b : Byte) (s : State) :
    regWriteAt r b s = s := by
  cases r <;> cases h <;> rfl

theorem regWrite_of_ignoresWrite {off : Byte} (h : (regAt off).ignoresWrite = true) (b : Byte) (s : State) :
    regWrite off b s = s := regWriteAt_of_ignoresWrite h b s

/-! ### Registers that read as a constant -/

/-- The constant of a CONST register other than GPREG, and the 0 of an UNLISTED offset (R53, R76). -/
def BankReg.constant? : BankReg → Option Byte
  | .ssid | .sbcl | .ctest1 | .ctest6 | .adder | .stest0 | .unlisted => some 0x00#8
  | .macntl | .gpcntl => some 0x0F#8
  | .ctest0 => some 0xFF#8
  | _ => none

theorem regValue_of_constant {r : BankReg} {c : Byte} (h : r.constant? = some c) (s : State) :
    regValue r s = c := by
  cases r <;> cases h <;> rfl

theorem ignoresWrite_of_constant {r : BankReg} {c : Byte} (h : r.constant? = some c) :
    r.ignoresWrite = true := by
  cases r <;> cases h <;> rfl

/-- An offset with a constant reads as it and ignores a write. -/
theorem regRead_regWrite_of_constant {off c : Byte} (h : (regAt off).constant? = some c) (b : Byte) (s : State) :
    (regRead off s).1 = c ∧ regWrite off b s = s :=
  ⟨regValue_of_constant h s, regWrite_of_ignoresWrite (ignoresWrite_of_constant h) b s⟩

/-! ### Registers that give back what was written -/

/-- The bits that a write stores and a read gives back: all for PLAIN and LANE, the mask for MASKED. -/
def BankReg.storedBits : BankReg → Option Byte
  | .scntl0 | .scntl3 | .scid | .sxfer | .sfbr | .socl | .dfifo | .ctest4 | .ctest5 | .dmode | .sbr | .sien0
  | .stime0 | .stime1 | .respid0 | .respid1 | .stest1 | .stest2 | .stest3 => some 0xFF#8
  | .dsa _ | .temp _ | .dbc _ | .dnad _ | .dsp _ | .dsps _ | .scratch _ _ => some 0xFF#8
  | .scntl2 => some 0xF6#8
  | .sdid => some 0x0F#8
  | .dien => some 0x7D#8
  | .sien1 => some 0x07#8
  | _ => none

theorem and_ff (b : Byte) : b &&& 0xFF#8 = b := BitVec.and_allOnes

theorem setWidth_low_four : ∀ b : Byte, (b.setWidth 4).setWidth 8 = b &&& 0x0F#8 := by decide

theorem setWidth_low_three : ∀ b : Byte, (b.setWidth 3).setWidth 8 = b &&& 0x07#8 := by decide

theorem setWidth_low_seven : ∀ b : Byte, ((b &&& 0x7D#8).setWidth 7).setWidth 8 = b &&& 0x7D#8 := by decide

/-- `Start()` leaves DSP alone, so a write of a lane changes DSP in that lane only. -/
@[simp] theorem writeDsp_dsp (k : Fin 4) (b : Byte) (s : State) :
    (writeDsp k b s).dsp = setLane s.dsp k b := by
  unfold writeDsp
  dsimp only
  split <;> rfl

/-- Write, then read: the stored bits come back (R79). -/
theorem regValue_regWriteAt {r : BankReg} {m : Byte} (h : r.storedBits = some m) (b : Byte) (s : State) :
    regValue r (regWriteAt r b s) = b &&& m := by
  cases r <;> cases h
  case scntl2 => rfl
  case sdid => exact setWidth_low_four b
  case dien => exact setWidth_low_seven b
  case sien1 => exact setWidth_low_three b
  case dsa k | temp k | dbc k | dnad k | dsps k =>
    rw [and_ff]
    exact lane_setLane_same _ _ _ (by omega)
  case dsp k =>
    rw [and_ff, regValue, regWriteAt, writeDsp_dsp]
    exact lane_setLane_same _ _ _ (by omega)
  case scratch j k =>
    rw [and_ff, regValue, regWriteAt, Fin.getElem_fin, Vector.getElem_set_self]
    exact lane_setLane_same _ _ _ (by omega)
  all_goals exact (and_ff b).symm

/-- A register that gives nothing back ignores writes, or is one of the four SPECIAL ones that are written. -/
theorem ignoresWrite_or_special_of_storedBits {r : BankReg} (h : r.storedBits = none) :
    r.ignoresWrite = true ∨ r = .scntl1 ∨ r = .istat ∨ r = .ctest3 ∨ r = .dcntl := by
  cases r <;> cases h <;> simp [BankReg.ignoresWrite]

theorem regValue_reset_ne {r : BankReg} (h : r.ignoresWrite = true) : regValue r State.reset ≠ 0x15#8 := by
  cases r <;> cases h <;> decide

/-- After reset no register of the other classes gives back 0x15: each SPECIAL one drops a bit of it (bit 0 in
SCNTL1 and ISTAT, bit 4 in CTEST3, bit 2 in DCNTL), the rest hold something else. -/
theorem regValue_regWriteAt_reset_ne {r : BankReg} (h : r.storedBits = none) :
    regValue r (regWriteAt r 0x15#8 State.reset) ≠ 0x15#8 := by
  rcases ignoresWrite_or_special_of_storedBits h with hr | rfl | rfl | rfl | rfl
  · rw [regWriteAt_of_ignoresWrite hr]
    exact regValue_reset_ne hr
  all_goals decide

/-! ### Lanes of a word as parts of it -/

/-- A value is the one with lane `k` replaced when its bits are. -/
theorem setLane_eq_of_bits {n : Nat} {v u : BitVec n} {k : Nat} {b : Byte} (hn : 8 * k + 8 ≤ n)
    (h : ∀ i < n, u.getLsbD i = if 8 * k ≤ i ∧ i < 8 * k + 8 then b.getLsbD (i - 8 * k) else v.getLsbD i) :
    setLane v k b = u :=
  BitVec.eq_of_getLsbD_eq fun i hi => by rw [getLsbD_setLane v k b hn, h i hi]

theorem setLane_word_zero (v : Word) (b : Byte) : setLane v 0 b = v.extractLsb' 8 24 ++ b :=
  setLane_eq_of_bits (by omega) fun i hi => by grind

theorem setLane_word_one (v : Word) (b : Byte) :
    setLane v 1 b = v.extractLsb' 16 16 ++ b ++ v.extractLsb' 0 8 :=
  setLane_eq_of_bits (by omega) fun i hi => by grind

theorem setLane_word_two (v : Word) (b : Byte) :
    setLane v 2 b = v.extractLsb' 24 8 ++ b ++ v.extractLsb' 0 16 :=
  setLane_eq_of_bits (by omega) fun i hi => by grind

theorem setLane_word_three (v : Word) (b : Byte) : setLane v 3 b = b ++ v.extractLsb' 0 24 :=
  setLane_eq_of_bits (by omega) fun i hi => by grind

/-! ### Writes of DSP and DCNTL -/

/-- A lane below the top one is only stored (R69). -/
theorem writeDsp_of_ne_top {k : Fin 4} (hk : k ≠ 3) (b : Byte) (s : State) :
    writeDsp k b s = { s with dsp := setLane s.dsp k b } :=
  if_neg fun h => hk h.1

/-- The top lane also starts the interpreter, unless MAN is set (R69). -/
theorem writeDsp_top (b : Byte) (s : State) :
    writeDsp 3 b s = { s with dsp := setLane s.dsp 3 b, sstop := s.sstop && s.dmode.getLsbD 0 } := by
  unfold writeDsp start
  cases hman : s.dmode.getLsbD 0 <;> cases hstop : s.sstop <;> simp

/-- DCNTL is stored under its mask, and STD starts the interpreter (R72). -/
theorem writeDcntl_eq (b : Byte) (s : State) :
    writeDcntl b s = { s with dcntl := b &&& 0xBB#8, sstop := s.sstop && !b.getLsbD 2 } := by
  unfold writeDcntl start
  cases hstd : b.getLsbD 2 <;> cases hstop : s.sstop <;> simp

end Sys2Proof.Machine
end

section
/-! SUPPORT. The offset lists of the statements are the classes of the map, and the values and causes written
from the rules are the machine's own. -/

namespace Sys2Proof.Claims

open Sys2Proof.Machine

/-! ### Offsets -/

theorem storedMask_eq : ∀ off : Byte, storedMask off = (regAt off).storedBits := by decide

theorem constant_of_mem_constants : ∀ p ∈ constants, (regAt p.1).constant? = some p.2 := by
  simp only [constants, List.forall_mem_cons, List.not_mem_nil, false_implies, implies_true, and_true]
  decide

theorem constant_of_isUnlisted : ∀ off : Byte, isUnlisted off = true → (regAt off).constant? = some 0x00#8 := by
  decide

theorem ignoresWrite_of_readEffect :
    ∀ off ∈ [0x1A#8, 0x42#8, 0x43#8, 0x0C#8], (regAt off).ignoresWrite = true := by decide

theorem ignoresWrite_of_live :
    ∀ off ∈ [0x0D#8, 0x0E#8, 0x0F#8, 0x50#8, 0x58#8], (regAt off).ignoresWrite = true := by decide

/-- The registers with a read effect have one offset each. -/
theorem regAt_ne_of_no_readEffect : ∀ off : Byte, off ∉ [0x1A#8, 0x42#8, 0x43#8, 0x0C#8] →
    regAt off ≠ .dstat ∧ regAt off ≠ .sist0 ∧ regAt off ≠ .sist1 ∧ regAt off ≠ .ctest2 := by decide

/-! ### Causes -/

theorem raise_abrt_eq (s : State) : raise .abrt s = dmaCause 0x10#7 s := by
  rw [dmaCause, lined_eq]
  rfl

theorem raise_rst_eq (s : State) : raise .rst s = scsiCause 0x02#8 s := by
  have hstop : (raise .rst s).sstop = true := raise_sstop s .rst (by decide)
  rw [raise_rst, raiseScsi_sstop] at hstop
  rw [raise_rst, raiseScsi, hstop, BitVec.or_zero, scsiCause, lined_eq]

/-! ### Values read -/

theorem dstat_read_eq : ∀ d : BitVec 7, (1#1 ++ d : Byte) = d.setWidth 8 ||| 0x80#8 := by decide

theorem ctest3_read_eq : ∀ rev lo : BitVec 4, (rev ++ lo : Byte) = rev.setWidth 8 <<< 4 ||| lo.setWidth 8 := by
  decide

theorem istat_read_eq : ∀ (hi : BitVec 4) (con fly sip dip : Bool),
    (hi ++ BitVec.ofBool con ++ BitVec.ofBool fly ++ BitVec.ofBool sip ++ BitVec.ofBool dip : Byte) =
      hi.setWidth 8 <<< 4 ||| bit con <<< 3 ||| bit fly <<< 2 ||| bit sip <<< 1 ||| bit dip := by decide

theorem sip_eq (s : State) : sip s = decide (s.sist0 ≠ 0#8 ∨ s.sist1 ≠ 0#3) := by
  rw [Bool.eq_iff_iff]
  simp [sip]

theorem dip_eq (s : State) : dip s = decide (s.dstat ≠ 0#7) := by
  rw [Bool.eq_iff_iff]
  simp [dip]

theorem istatValue_eq (s : State) : istatValue s =
    s.istatHi.setWidth 8 <<< 4 ||| bit (s.scntl1.getLsbD 4) <<< 3 ||| bit s.intf <<< 2 |||
      bit (decide (s.sist0 ≠ 0#8 ∨ s.sist1 ≠ 0#3)) <<< 1 ||| bit (decide (s.dstat ≠ 0#7)) := by
  rw [istatValue, istat_read_eq, sip_eq, dip_eq, connected]

theorem sbdlValue_of_next {s : State} {m : Byte} {rest : List Byte} (hp : s.phase = .msgIn)
    (hm : s.msg = m :: rest) : sbdlValue s = m := by
  rw [sbdlValue, if_pos hp, hm, List.headD_cons]

theorem sbdlValue_of_none {s : State} (h : s.phase ≠ .msgIn ∨ s.msg = []) : sbdlValue s = 0#8 := by
  rcases h with hp | hm
  · exact if_neg hp
  · rw [sbdlValue, hm, List.headD_nil, ite_self]

/-! ### Bytes written -/

theorem istatHi_written_eq : ∀ b : Byte, b.extractLsb' 4 4 = (b >>> 4).setWidth 4 := by decide

theorem sien1_written_eq : ∀ b : Byte, b.setWidth 3 = (b &&& 0x07#8).setWidth 3 := by decide

end Sys2Proof.Claims
end

section
/-! The statements on the register bank (11_register_bank). -/

namespace Sys2Proof.Claims

open Sys2Proof.Machine

/-- Settles O22: the mask of an offset is that of its register, and 0x15 written after reset is the
counterexample for the other classes. -/
theorem writeThenReadBack : Obligations.WriteThenReadBack := by
  unfold Obligations.WriteThenReadBack
  refine ⟨fun off b m s h => ?_, fun off h => ?_⟩ <;> rw [storedMask_eq] at h
  · exact regValue_regWriteAt h b s
  · exact ⟨0x15#8, State.reset, regValue_regWriteAt_reset_ne h⟩

/-- Settles O24, by the four registers of `regReadEffect` and the offsets that are none of them. -/
theorem bankReadEffects : Obligations.BankReadEffects := by
  unfold Obligations.BankReadEffects
  intro s
  simp only [lined_eq]
  refine ⟨rfl, rfl, rfl, ?dstat, fun off b h => ?ignored, fun off h => ?unchanged⟩
  case dstat =>
    rw [← dstat_read_eq]
    rfl
  case ignored => exact regWrite_of_ignoresWrite (ignoresWrite_of_readEffect off h) b s
  case unchanged =>
    obtain ⟨hd, h0, h1, hc⟩ := regAt_ne_of_no_readEffect off h
    exact regReadEffect_eq_self s hd h0 h1 hc

/-- Settles O25: every offset named has a constant, but GPREG and DCMD. -/
theorem constantOffsetsIgnoreWrites : Obligations.ConstantOffsetsIgnoreWrites := by
  unfold Obligations.ConstantOffsetsIgnoreWrites
  intro off b s
  refine ⟨fun c h => ?const, ?gpreg, ?dcmd, fun h => ?unlisted⟩
  case const => exact regRead_regWrite_of_constant (constant_of_mem_constants _ h) b s
  case gpreg => rintro rfl; exact ⟨rfl, rfl⟩
  case dcmd => rintro rfl; exact ⟨rfl, rfl⟩
  case unlisted => exact regRead_regWrite_of_constant (constant_of_isUnlisted off h) b s

/-- Settles O26: the fields shown by the live registers. -/
theorem liveRegisterReads : Obligations.LiveRegisterReads := by
  unfold Obligations.LiveRegisterReads
  intro b s
  refine ⟨rfl, rfl, rfl, ?istat, ?ctest3, rfl, rfl, fun _ _ hp hm => ?next, fun h => ?none,
    fun off h => ?ignored⟩
  case istat =>
    rw [← istatValue_eq]
    rfl
  case ctest3 => exact ctest3_read_eq _ _
  case next => exact sbdlValue_of_next hp hm
  case none => exact sbdlValue_of_none h
  case ignored => exact regWrite_of_ignoresWrite (ignoresWrite_of_live off h) b s

/-- Settles O27: the order is that of `writeIstat`; neither ABRT nor INTF changes what the wake looks at,
`waiting` and `dnad`. -/
theorem istatWrite : Obligations.IstatWrite := by
  unfold Obligations.IstatWrite
  intro b s
  change writeIstat b s = _
  simp only [writeIstat, raise_abrt_eq, lined_eq, istatHi_written_eq]
  cases b.getLsbD 7 <;> cases b.getLsbD 2 <;> rfl

/-- Settles O28: RST low, RST held, RST rising. -/
theorem scntl1Write : Obligations.Scntl1Write := by
  unfold Obligations.Scntl1Write
  intro b s
  refine ⟨rfl, ?_⟩
  change writeScntl1 b s = _
  simp only [writeScntl1, raise_rst_eq]
  cases b.getLsbD 3 <;> rfl

/-- Settles O29: a DSP lane by its place in the word, and the two Start writes. -/
theorem dspAndDcntlWrites : Obligations.DspAndDcntlWrites := by
  unfold Obligations.DspAndDcntlWrites
  intro b s
  rw [← setLane_word_zero, ← setLane_word_one, ← setLane_word_two, ← setLane_word_three]
  exact ⟨writeDsp_of_ne_top (k := 0) (by decide) b s, writeDsp_of_ne_top (k := 1) (by decide) b s,
    writeDsp_of_ne_top (k := 2) (by decide) b s, writeDsp_top b s, writeDcntl_eq b s, rfl⟩

/-- Settles O30: the three enables, each followed by the line. -/
theorem enableWrites : Obligations.EnableWrites := by
  unfold Obligations.EnableWrites
  intro b s
  simp only [lined_eq, ← sien1_written_eq]
  exact ⟨rfl, rfl, rfl, rfl, rfl, rfl⟩

end Sys2Proof.Claims
end

section
/-! SUPPORT. The DMA Transfer Unit in its two modes (20_memory R106, R107), and the record of a run of port
calls. -/

namespace Sys2Proof.Machine

/-- The record of one port call for each byte, at ascending port numbers modulo 2^16, newest first as in
`State.io.trace`. -/
def portCalls (call : Port → Byte → ExtCall) (addr : Word) (bs : List Byte) : List ExtCall :=
  ((List.range bs.length).map fun i => call (portOf (addr + BitVec.ofNat 32 i)) (bs.getD i 0#8)).reverse

@[simp] theorem portCalls_nil (call : Port → Byte → ExtCall) (addr : Word) : portCalls call addr [] = [] := rfl

theorem addr_add_ofNat_succ (addr : Word) (i : Nat) :
    addr + BitVec.ofNat 32 (i + 1) = addr + 1#32 + BitVec.ofNat 32 i := by
  rw [Nat.add_comm, BitVec.ofNat_add, BitVec.add_assoc]

/-- The first byte's call is the oldest; the rest are those from the next address on. -/
theorem portCalls_cons (call : Port → Byte → ExtCall) (addr : Word) (b : Byte) (bs : List Byte) :
    portCalls call addr (b :: bs) = portCalls call (addr + 1#32) bs ++ [call (portOf addr) b] := by
  simp only [portCalls, List.length_cons, List.range_succ_eq_map, List.map_cons, List.map_map,
    List.reverse_cons, Function.comp_def, List.getD_cons_zero, List.getD_cons_succ, Nat.succ_eq_add_one,
    ← addr_add_ofNat_succ, BitVec.add_zero]

/-- A run of port reads records its calls with the bytes it returned. -/
theorem portBytes_trace (addr : Word) (n : Nat) (s : State) :
    (portBytes addr n s).2.io.trace = portCalls .portRead addr (portBytes addr n s).1 ++ s.io.trace := by
  induction n generalizing addr s with
  | zero => rfl
  | succ n ih =>
    have rest := ih (addr + 1#32) (portRead (portOf addr) s).2
    rw [portBytes, portCalls_cons, List.append_assoc]
    exact rest

/-- A run of port writes records its calls and does nothing else. -/
theorem portStore_eq (addr : Word) (bs : List Byte) (s : State) :
    portStore addr bs s =
      { s with io := { s.io with trace := portCalls .portWrite addr bs ++ s.io.trace } } := by
  induction bs generalizing addr s with
  | nil => rfl
  | cons b rest ih =>
    rw [portStore, ih, portCalls_cons, List.append_assoc]
    rfl

/-- With SIOM clear a DMA read is the memory read (R106). -/
theorem dmaRead_of_memory {s : State} (h : s.dmode.getLsbD 5 = false) (addr : Word) (n : Nat) :
    dmaRead addr n s = (s.mem.bytes addr n, s) := by
  rw [dmaRead, siom, h, if_neg Bool.false_ne_true]

/-- With SIOM set a DMA read is a run of port reads (R106). -/
theorem dmaRead_of_port {s : State} (h : s.dmode.getLsbD 5 = true) (addr : Word) (n : Nat) :
    dmaRead addr n s = portBytes addr n s := by
  rw [dmaRead, siom, if_pos h]

/-- With DIOM clear a DMA write is the memory write (R107). -/
theorem dmaWrite_of_memory {s : State} (h : s.dmode.getLsbD 4 = false) (addr : Word) (bs : List Byte) :
    dmaWrite addr bs s = memWrite addr bs s := by
  rw [dmaWrite, diom, h, if_neg Bool.false_ne_true]

/-- With DIOM set a DMA write is a run of port writes (R107). -/
theorem dmaWrite_of_port {s : State} (h : s.dmode.getLsbD 4 = true) (addr : Word) (bs : List Byte) :
    dmaWrite addr bs s = portStore addr bs s := by
  rw [dmaWrite, diom, if_pos h]

end Sys2Proof.Machine
end

section
/-! The statement on the DMA Transfer Unit (20_memory). -/

namespace Sys2Proof.Claims

open Sys2Proof.Machine

/-- Settles O48: each mode bit chooses between the memory operation and a run of port calls, whose record is
`portCalls`. -/
theorem dmaUnitObeysModeBits : Obligations.DmaUnitObeysModeBits := by
  unfold Obligations.DmaUnitObeysModeBits
  intro addr n bs s
  obtain ⟨hlen, hframe⟩ := dmaRead_spec s addr n
  refine ⟨fun h => dmaRead_of_memory h addr n, fun h => ⟨hlen, hframe, ?portReads⟩,
    fun h => dmaWrite_of_memory h addr bs, fun h => ?portWrites⟩
  case portReads =>
    have htrace := portBytes_trace addr n s
    rwa [← dmaRead_of_port h, portCalls, hlen] at htrace
  case portWrites =>
    rw [dmaWrite_of_port h]
    exact portStore_eq addr bs s

end Sys2Proof.Claims
end

section
/-! SUPPORT. The register ALU: what each operator gives (43_regalu R210 to R217), what a form does with an
operator's result (R201 to R203), and that a register read leaves the ALU's other inputs, `carry` and `sfbr`. -/

namespace Sys2Proof.Claims

open Sys2Proof.Machine

/-! ### The operators -/

theorem aluResult_mov (a b : Byte) (c : Bool) : aluResult .mov a b c = (b, c) := rfl

theorem aluResult_shl (a b : Byte) (c : Bool) :
    aluResult .shl a b c = (a <<< 1 ||| bit c, a.getLsbD 7) := shiftLeft_eq a c

theorem aluResult_or (a b : Byte) (c : Bool) : aluResult .or a b c = (a ||| b, c) := rfl

theorem aluResult_xor (a b : Byte) (c : Bool) : aluResult .xor a b c = (a ^^^ b, c) := rfl

theorem aluResult_and (a b : Byte) (c : Bool) : aluResult .and a b c = (a &&& b, c) := rfl

theorem aluResult_shr (a b : Byte) (c : Bool) :
    aluResult .shr a b c = (a >>> 1 ||| bit c <<< 7, a.getLsbD 0) := shiftRight_eq a c

/-- ADD has no carry in (R216). -/
theorem aluResult_add (a b : Byte) (c : Bool) :
    aluResult .add a b c = (a + b, decide (255 < a.toNat + b.toNat)) := by
  have hsum := addBytes_eq a b false
  rwa [show bit false = 0#8 from rfl, BitVec.add_zero, BitVec.toNat_zero, Nat.add_zero] at hsum

theorem aluResult_adc (a b : Byte) (c : Bool) :
    aluResult .adc a b c = (a + b + bit c, decide (255 < a.toNat + b.toNat + (bit c).toNat)) :=
  addBytes_eq a b c

/-! ### The operands -/

theorem regRead_carry (reg : Byte) (s : State) : (regRead reg s).2.carry = s.carry := by
  rw [regRead, regReadEffect_frame]

theorem regRead_sfbr (reg : Byte) (s : State) : (regRead reg s).2.sfbr = s.sfbr := by
  rw [regRead, regReadEffect_frame]

/-- The second operand of form RM is the same before and after the register read. -/
theorem rmOperand_regRead (reg : Byte) (src : RmSource) (s : State) :
    rmOperand src (regRead reg s).2 = rmOperand src s := by
  cases src with
  | imm v => rfl
  | sfbr => exact regRead_sfbr reg s

theorem aluFirst_of_ne_mov {op : AluOp} (hop : op ≠ .mov) (reg : Byte) (s : State) :
    aluFirst op reg s = regRead reg s := if_neg hop

/-! ### The forms -/

theorem exec_ofFs (op : AluOp) (reg imm : Byte) (s : State) :
    exec (Instr.ofFs op reg imm) s = .next (aluFromSfbr op reg imm s) := by
  cases op <;> rfl

theorem exec_ofTs (op : AluOp) (reg imm : Byte) (s : State) :
    exec (Instr.ofTs op reg imm) s = .next (aluToSfbr op reg imm s) := by
  cases op <;> rfl

theorem exec_ofRm (op : AluOp) (reg : Byte) (src : RmSource) (s : State) :
    exec (Instr.ofRm op reg src) s = .next (aluModify op reg src s) := by
  cases op <;> rfl

/-- Form FS with the operator's result named (R201). -/
theorem exec_ofFs_of_aluResult {op : AluOp} {reg imm r : Byte} {c : Bool} {s : State}
    (h : aluResult op s.sfbr imm s.carry = (r, c)) :
    exec (Instr.ofFs op reg imm) s = .next (regWrite reg r { s with carry := c }) := by
  rw [exec_ofFs, aluFromSfbr, h]

/-- Form TS of an operator that reads the register, with its result named (R202). -/
theorem exec_ofTs_of_ne_mov {op : AluOp} {reg imm r : Byte} {c : Bool} {s : State} (hop : op ≠ .mov)
    (h : aluResult op (regRead reg s).1 imm (regRead reg s).2.carry = (r, c)) :
    exec (Instr.ofTs op reg imm) s = .next { (regRead reg s).2 with carry := c, sfbr := r } := by
  rw [exec_ofTs, aluToSfbr, aluFirst_of_ne_mov hop]
  generalize regRead reg s = read at h ⊢
  simp only [h]

/-- Form RM of an operator that reads the register, with its result named (R203). -/
theorem exec_ofRm_of_ne_mov {op : AluOp} {reg r : Byte} {src : RmSource} {c : Bool} {s : State}
    (hop : op ≠ .mov)
    (h : aluResult op (regRead reg s).1 (rmOperand src s) (regRead reg s).2.carry = (r, c)) :
    exec (Instr.ofRm op reg src) s = .next (regWrite reg r { (regRead reg s).2 with carry := c }) := by
  rw [exec_ofRm, aluModify, aluFirst_of_ne_mov hop]
  rw [← rmOperand_regRead reg src s] at h
  generalize regRead reg s = read at h ⊢
  simp only [h]

end Sys2Proof.Claims
end

section
/-! The statements on the register ALU (43_regalu). -/

namespace Sys2Proof.Claims

open Sys2Proof.Machine

/-- Settles O34: form FS with each operator's result of `sfbr` and the immediate. -/
theorem fromSfbrInstructions : Obligations.FromSfbrInstructions := by
  unfold Obligations.FromSfbrInstructions
  intro reg imm s
  exact ⟨exec_ofFs_of_aluResult (aluResult_mov ..), exec_ofFs_of_aluResult (aluResult_shl ..),
    exec_ofFs_of_aluResult (aluResult_or ..), exec_ofFs_of_aluResult (aluResult_xor ..),
    exec_ofFs_of_aluResult (aluResult_and ..), exec_ofFs_of_aluResult (aluResult_shr ..),
    exec_ofFs_of_aluResult (aluResult_add ..), exec_ofFs_of_aluResult (aluResult_adc ..)⟩

/-- Settles O35: form TS with each operator's result; the carry it takes in is still that of `s` after the
register read. -/
theorem toSfbrInstructions : Obligations.ToSfbrInstructions := by
  unfold Obligations.ToSfbrInstructions
  intro reg imm s
  refine ⟨exec_ofTs .mov reg imm s, ?_⟩
  rw [← regRead_carry reg s]
  refine ⟨exec_ofTs_of_ne_mov ?_ (aluResult_shl ..), exec_ofTs_of_ne_mov ?_ (aluResult_or ..),
    exec_ofTs_of_ne_mov ?_ (aluResult_xor ..), exec_ofTs_of_ne_mov ?_ (aluResult_and ..),
    exec_ofTs_of_ne_mov ?_ (aluResult_shr ..), exec_ofTs_of_ne_mov ?_ (aluResult_add ..),
    exec_ofTs_of_ne_mov ?_ (aluResult_adc ..)⟩
  all_goals decide

/-- Settles O36: form RM with each operator's result; the carry and the second operand are still those of `s`
after the register read. -/
theorem readModifyWriteInstructions : Obligations.ReadModifyWriteInstructions := by
  unfold Obligations.ReadModifyWriteInstructions
  intro reg src s
  refine ⟨exec_ofRm .mov reg src s, ?_⟩
  rw [← regRead_carry reg s]
  refine ⟨exec_ofRm_of_ne_mov ?_ (aluResult_shl ..), exec_ofRm_of_ne_mov ?_ (aluResult_or ..),
    exec_ofRm_of_ne_mov ?_ (aluResult_xor ..), exec_ofRm_of_ne_mov ?_ (aluResult_and ..),
    exec_ofRm_of_ne_mov ?_ (aluResult_shr ..), exec_ofRm_of_ne_mov ?_ (aluResult_add ..),
    exec_ofRm_of_ne_mov ?_ (aluResult_adc ..)⟩
  all_goals decide

end Sys2Proof.Claims
end

section
/-! SUPPORT. The two templates that begin with the delayed selection-timeout stop: the gated Transfer Control
instructions (44_transfer_control R260, R263) and the Block Moves (41_block_move R180). -/

namespace Sys2Proof.Claims

open Sys2Proof.Machine

theorem gated_of_stoPending {s : State} (h : StoPending s) (c : Cond) (done : State) :
    gated c s done = stop s := if_pos ((stoPending_iff s).mp h)

theorem blockMove_of_stoPending {s : State} (h : StoPending s) (ph : BitVec 3) (count : Word24) (addr : Word) :
    blockMove ph count addr s = stop s := if_pos ((stoPending_iff s).mp h)

/-- Every gated instruction is the template `gated` with a taken state of its own. -/
theorem exec_gated {c : Cond} {i : Instr} (h : Gated c i) (s : State) :
    ∃ done, exec i s = .next (gated c s done) := by
  cases h with
  | jump t => exact ⟨_, rfl⟩
  | call t => exact ⟨_, rfl⟩
  | ret => exact ⟨_, rfl⟩
  | int v => exact ⟨_, rfl⟩
  | intfly v => exact ⟨_, rfl⟩

/-- Every form of a Block Move has its phase, count and address in a state. -/
theorem blockMove_of_isBlockMove {i : Instr} (h : isBlockMove i = true) (s : State) :
    ∃ ph count addr, BlockMove s i ph count addr := by
  cases i
  case move => exact ⟨_, _, _, .direct _ _ _⟩
  case moveInd => exact ⟨_, _, _, .indirect _ _ _⟩
  case moveTbl => exact ⟨_, _, _, .table _ _⟩
  all_goals contradiction

end Sys2Proof.Claims
end

section
/-! The statement on the delayed stop (44_transfer_control). -/

namespace Sys2Proof.Claims

open Sys2Proof.Machine

/-- Settles O45: both templates answer `stop s` while STO is latched, whatever the condition's tests or the
Block Move's operands are. -/
theorem delayedTimeoutStop : Obligations.DelayedTimeoutStop := by
  unfold Obligations.DelayedTimeoutStop
  rintro i s hsto (⟨c, -, hgated⟩ | hblock)
  · obtain ⟨done, hexec⟩ := exec_gated hgated s
    rw [hexec, gated_of_stoPending hsto, stop]
  · obtain ⟨ph, count, addr, hmove⟩ := blockMove_of_isBlockMove hblock s
    rw [exec_blockMove hmove, blockMove_of_stoPending hsto, stop]

end Sys2Proof.Claims
end

section
/-! SUPPORT. The handlers of the phase engine in the words of the statements (46_phase_engine R294 to R303): one
equation for each function that a handler calls, the record that a DMA write leaves, and the loop of Message-Out
round by round. -/

namespace Sys2Proof.Claims

open Sys2Proof.Machine

/-! ### From the handler to the instruction -/

/-- A Block Move past its checks, once it is known what its handler makes of the loaded operands. The statements'
states do not hold the loaded `rbc`, which the bookkeeping overwrites. -/
theorem exec_blockMove_of_handler {i : Instr} {s t : State} {ph : BitVec 3} {count : Word24} {addr : Word}
    (h : BlockMove s i ph count addr) (hs : ¬StoPending s) (hp : s.phase.code = ph)
    (ht : runHandler { s with dbc := count, rbc := count, dnad := addr } = { t with rbc := count }) :
    exec i s = .next (booked count t) := by
  rw [exec_blockMove_of_phase h hs hp, ht, blockBookkeeping_eq count _ rfl, booked_rbc]

theorem runHandler_command {s : State} (h : s.phase = .command) : runHandler s = commandPhase s := by
  rw [runHandler, h]

theorem runHandler_status {s : State} (h : s.phase = .status) : runHandler s = statusPhase s := by
  rw [runHandler, h]

theorem runHandler_msgIn {s : State} (h : s.phase = .msgIn) : runHandler s = messageIn s := by
  rw [runHandler, h]

theorem runHandler_msgOut {s : State} (h : s.phase = .msgOut) : runHandler s = messageOut s := by
  rw [runHandler, h]

/-! ### Operations the handlers share -/

theorem disconnect_eq_offBus (s : State) : disconnect s = offBus s := rfl

/-- A selection timeout adds nothing to `sist0` and only bit 2 to `sist1`, so it stops exactly when something else
was latched. -/
theorem raise_sto_eq (s : State) : raise .sto s = timeoutCause s := by
  have hbit : ∀ v : BitVec 3, (v ||| 4#3) &&& 3#3 = v &&& 3#3 := by decide
  have hstop : (s.sstop || s.sist0 ||| 0#8 != 0#8 || (s.sist1 ||| 4#3) &&& 3#3 != 0#3) =
      (s.sstop || decide (s.sist0 ≠ 0#8 ∨ s.sist1 &&& 3#3 ≠ 0#3)) := by
    rw [hbit, BitVec.or_zero, Bool.eq_iff_iff]
    simp [or_assoc]
  rw [raise_sto, raiseScsi, hstop, BitVec.or_zero, timeoutCause, lined_eq]

/-- A DMA write in a state that shares memory, mode bits and outside world with `t` stores what it stores
in `t`. -/
theorem dmaWrite_of_agree {s t : State} (addr : Word) (bs : List Byte) (hmem : s.mem = t.mem)
    (hmode : s.dmode = t.dmode) (hio : s.io = t.io) :
    dmaWrite addr bs s = { s with mem := (dmaWrite addr bs t).mem, io := (dmaWrite addr bs t).io } := by
  obtain ⟨hm, hi⟩ := dmaWrite_congr s addr bs hmem hmode hio
  rw [dmaWrite_frame, hm, hi]

/-! ### Counts -/

/-- The residual after `k` bytes of a count. -/
theorem sub_ofNat (x : Word24) {k : Nat} (hk : k ≤ x.toNat) :
    x - BitVec.ofNat 24 k = BitVec.ofNat 24 (x.toNat - k) := by
  have hx := x.isLt
  rw [← BitVec.ofNat_sub_ofNat_of_le _ _ (by omega) hk, BitVec.ofNat_toNat, BitVec.setWidth_eq]

/-- The saturating difference of the machine is that of the natural numbers. -/
theorem satSub_ofNat (x : Word24) {k : Nat} (hk : k < 2 ^ 24) :
    satSub x (BitVec.ofNat 24 k) = BitVec.ofNat 24 (x.toNat - k) := by
  have hle : BitVec.ofNat 24 k ≤ x ↔ k ≤ x.toNat := by
    rw [BitVec.le_def, BitVec.toNat_ofNat, Nat.mod_eq_of_lt hk]
  unfold satSub
  split_ifs with h
  · exact sub_ofNat x (hle.1 h)
  · rw [Nat.sub_eq_zero_of_le (Nat.le_of_not_le (mt hle.2 h))]

/-! ### Command phase (46_phase_engine R294) -/

/-- The state once the CDB is read: `sfbr` keeps its value when the count is 0. -/
theorem cdbRead_eq (s : State) : cdbRead s = { s with
    sfbr := if min s.dbc.toNat 12 = 0 then s.sfbr else s.mem.byte s.dnad
    dnad := s.dnad + BitVec.ofNat 32 (min s.dbc.toNat 12)
    dbc := 0#24 } := by
  have hfirst : (if 0 < cdbCount s then (cdbBytes s).headD 0#8 else s.sfbr) =
      if min s.dbc.toNat 12 = 0 then s.sfbr else s.mem.byte s.dnad := by
    rw [cdbBytes, show min s.dbc.toNat 12 = cdbCount s from rfl]
    cases cdbCount s <;> rfl
  rw [cdbRead, hfirst]
  rfl

/-- An absent target: the phase ends with a selection timeout and off the bus. -/
theorem commandPhase_of_absent {s : State} (h : (askPresent s.sdid s).1 = false) :
    commandPhase s = offBus (timeoutCause { cdbRead s with io := (askPresent s.sdid s).2.io }) := by
  rw [commandPhase_eq, if_neg (by exact ne_true_of_eq_false h), raise_sto_eq, disconnect_eq_offBus]
  rfl

/-- A target that is present: its answer to the CDB decides the phase; a request left over is dropped first. -/
theorem commandPhase_of_present {s : State} {reply : Config.DevReply} (h : (askPresent s.sdid s).1 = true)
    (hreply : (askCommand s.sdid (cdbBytes s) { s with io := (askPresent s.sdid s).2.io }).1 = reply) :
    commandPhase s = { applyReply reply { cdbRead s with
      request := none
      io := (askCommand s.sdid (cdbBytes s) { s with io := (askPresent s.sdid s).2.io }).2.io } with
      yield := true } := by
  rw [commandPhase_eq, if_pos (by exact h), ← hreply]
  rfl

/-! ### Status phase (46_phase_engine R298) -/

/-- Status phase as one update of the state on entry; the count has no part in it. -/
theorem statusPhase_eq (s : State) : statusPhase s = { s with
    sfbr := s.status
    dbc := 0#24
    dnad := s.dnad + 1#32
    phase := .msgIn
    msgAction := .disconnect
    msg := if s.msg.length < 8 then s.msg ++ [0x00#8] else s.msg
    mem := (dmaWrite s.dnad [s.status] s).mem
    io := (dmaWrite s.dnad [s.status] s).io } := by
  rw [statusPhase, dmaWrite_of_agree (s := { s with sfbr := s.status }) (t := s) _ _ rfl rfl rfl]
  rfl

/-! ### Message-In (46_phase_engine R299) -/

/-- The transfer of Message-In as one update of the state on entry. -/
theorem sendMessages_eq (s : State) : sendMessages s =
    if min s.msg.length s.dbc.toNat = 0 then s
    else { s with
      sfbr := s.msg.headD 0#8
      sidl := s.msg.getD (min s.msg.length s.dbc.toNat - 1) 0#8
      dbc := BitVec.ofNat 24 (s.dbc.toNat - min s.msg.length s.dbc.toNat)
      dnad := s.dnad + BitVec.ofNat 32 (min s.msg.length s.dbc.toNat)
      msg := s.msg.drop (min s.msg.length s.dbc.toNat)
      mem := (dmaWrite s.dnad (s.msg.take (min s.msg.length s.dbc.toNat)) s).mem
      io := (dmaWrite s.dnad (s.msg.take (min s.msg.length s.dbc.toNat)) s).io } := by
  have hwrite (bs : List Byte) := dmaWrite_of_agree (s := { s with sfbr := s.msg.headD 0#8 }) (t := s)
    s.dnad bs rfl rfl rfl
  rw [← ite_not, ← sub_ofNat s.dbc (Nat.min_le_right ..)]
  simp only [sendMessages, hwrite]
  exact if_congr Nat.pos_iff_ne_zero rfl rfl

/-- What Message-In leaves in the buffer is what lies beyond the bytes sent. -/
theorem sendMessages_msg (s : State) :
    (sendMessages s).msg = s.msg.drop (min s.msg.length s.dbc.toNat) := by
  rw [sendMessages_eq]
  split <;> rename_i hn
  · rw [hn, List.drop_zero]
  · rfl

/-- The pending action is not one of the fields that sending the messages changes. -/
theorem sendMessages_msgAction (s : State) : (sendMessages s).msgAction = s.msgAction := by
  rw [sendMessages_eq]
  split <;> rfl

/-- What the pending action does, where its value is known by another name. -/
theorem doMsgAction_of_eq (s : State) (a : MsgAction) : s.msgAction = a → doMsgAction s =
    match a with
    | .command => setPhase .command s
    | .disconnect => disconnect s
    | .dataOut => setPhase .dataOut s
    | .dataIn => setPhase .dataIn s := by
  rintro rfl
  rfl

/-- The pending action is taken exactly when no byte is left. -/
theorem messageIn_eq (s : State) : messageIn s =
    if min s.msg.length s.dbc.toNat < s.msg.length then sendMessages s else doMsgAction (sendMessages s) := by
  have hleft : (sendMessages s).msg = [] ↔ ¬min s.msg.length s.dbc.toNat < s.msg.length := by
    rw [sendMessages_msg, List.drop_eq_nil_iff, Nat.not_lt]
  rw [← ite_not]
  exact if_congr hleft rfl rfl

/-! ### Message-Out (46_phase_engine R301 to R303) -/

theorem skipBytes_eq_skip {k : Nat} (hk : k < 2 ^ 24) (s : State) : skipBytes k s = skip k s := by
  rw [skipBytes, satSub_ofNat _ hk, skip]

/-- An extended message: after the unused length byte, the code. -/
theorem extendedMessage_eq_skips (s : State) : extendedMessage s =
    if s.mem.byte (s.dnad + 1#32) = 0x01#8 then (skip 2 (skip 1 (skip 1 s)), true)
    else if s.mem.byte (s.dnad + 1#32) = 0x03#8 then (skip 1 (skip 1 (skip 1 s)), true)
    else (rejected (skip 1 (skip 1 s)), false) := by
  simp only [← skipBytes_eq_skip (show 1 < 2 ^ 24 by decide), ← skipBytes_eq_skip (show 2 < 2 ^ 24 by decide)]
  rfl

theorem queueTag_eq_skip (s : State) :
    queueTag s = { skip 1 s with selectTag := s.mem.byte s.dnad, tagValid := true } := by
  rw [← skipBytes_eq_skip (show 1 < 2 ^ 24 by decide)]
  rfl

theorem getLsbD_seven_iff : ∀ m : Byte, m.getLsbD 7 = true ↔ ¬m.toNat < 0x80 := by decide

theorem extractLsb'_low_three : ∀ m : Byte, m.extractLsb' 0 3 = m.setWidth 3 := by decide

/-- One round of the machine's loop is the round of the rule, message code by message code. -/
theorem messageEffect_eq_messageRound (s : State) :
    messageEffect (s.mem.byte s.dnad) { skipBytes 1 s with sfbr := s.mem.byte s.dnad } = messageRound s := by
  have hcode : s.dnad + 2#32 = s.dnad + 1#32 + 1#32 := by rw [BitVec.add_assoc]; rfl
  rw [messageEffect, skipBytes_eq_skip (show 1 < 2 ^ 24 by decide), extendedMessage_eq_skips, queueTag_eq_skip,
    extractLsb'_low_three, if_congr (getLsbD_seven_iff _) rfl rfl, ite_not, messageRound, hcode]
  rfl

/-- No message gives bytes back. -/
theorem messageEffect_dbc_le (m : Byte) (s : State) : (messageEffect m s).1.dbc.toNat ≤ s.dbc.toNat := by
  have hskip (k : Nat) (t : State) : (skip k t).dbc.toNat ≤ t.dbc.toNat := by
    rw [skip, BitVec.toNat_ofNat]
    omega
  unfold messageEffect
  split_ifs
  · exact le_rfl
  · exact le_rfl
  · rw [extendedMessage_eq_skips]
    split_ifs
    · exact (hskip 2 _).trans ((hskip 1 _).trans (hskip 1 s))
    · exact (hskip 1 _).trans ((hskip 1 _).trans (hskip 1 s))
    · exact (hskip 1 _).trans (hskip 1 s)
  · rw [queueTag_eq_skip]
    exact hskip 1 s
  · exact le_rfl
  · exact le_rfl
  · exact le_rfl

/-- A round takes at least the message byte off the count. -/
theorem messageRound_dbc_lt {s : State} (h : s.dbc ≠ 0#24) : (messageRound s).1.dbc.toNat < s.dbc.toNat := by
  have hpos : s.dbc.toNat ≠ 0 := fun h0 => h (BitVec.eq_of_toNat_eq h0)
  have hlt := s.dbc.isLt
  have hbyte : (skipBytes 1 s).dbc.toNat = s.dbc.toNat - 1 := by
    rw [skipBytes_eq_skip (by decide), skip, BitVec.toNat_ofNat]
    omega
  calc (messageRound s).1.dbc.toNat
      ≤ (skipBytes 1 s).dbc.toNat := by
        rw [← messageEffect_eq_messageRound]
        exact messageEffect_dbc_le _ _
    _ < s.dbc.toNat := by omega

/-- One unit of fuel is one round. -/
theorem messageOutLoop_succ_eq (n : Nat) (s : State) : messageOutLoop (n + 1) s =
    if s.dbc = 0#24 then s
    else if (messageRound s).2 = true then messageOutLoop n (messageRound s).1
    else (messageRound s).1 := by
  rw [messageOutLoop_succ, messageEffect_eq_messageRound]

/-- No message touches the count that the Block Move saved. -/
theorem messageRound_rbc (s : State) : (messageRound s).1.rbc = s.rbc := by
  unfold messageRound
  dsimp only
  split_ifs <;> rfl

theorem messageOutLoop_rbc (n : Nat) (s : State) : (messageOutLoop n s).rbc = s.rbc := by
  induction n generalizing s with
  | zero => rfl
  | succ n ih =>
    rw [messageOutLoop_succ_eq]
    split_ifs
    · rfl
    · exact (ih _).trans (messageRound_rbc s)
    · exact messageRound_rbc s

/-- With fuel for the count, one unit more changes nothing: the count runs out before the fuel. -/
theorem messageOutLoop_succ_of_dbc_le {n : Nat} {s : State} (h : s.dbc.toNat ≤ n) :
    messageOutLoop (n + 1) s = messageOutLoop n s := by
  induction n generalizing s with
  | zero => exact if_pos (BitVec.eq_of_toNat_eq (Nat.le_zero.1 h))
  | succ n ih =>
    rw [messageOutLoop_succ_eq (n + 1) s, messageOutLoop_succ_eq n s]
    split_ifs with hdbc
    · rfl
    · exact ih (by have := messageRound_dbc_lt hdbc; omega)
    · rfl

/-- Any fuel for the count gives the loop of Message-Out. -/
theorem messageOutLoop_of_dbc_le {n : Nat} {s : State} (h : s.dbc.toNat ≤ n) :
    messageOutLoop n s = messageOut s := by
  induction n, h using Nat.le_induction with
  | base => rfl
  | succ n hn ih => rw [messageOutLoop_succ_of_dbc_le hn, ih]

/-- The loop of Message-Out is the loop of its rule, round by round. -/
theorem messageOut_eq (s : State) : messageOut s =
    if s.dbc = 0#24 then s
    else if (messageRound s).2 = true then messageOut (messageRound s).1
    else (messageRound s).1 := by
  rw [← messageOutLoop_of_dbc_le (Nat.le_succ s.dbc.toNat), messageOutLoop_succ_eq]
  split_ifs with hdbc
  · rfl
  · exact messageOutLoop_of_dbc_le (messageRound_dbc_lt hdbc).le
  · rfl

end Sys2Proof.Claims
end

section
/-! The statements on the phase engine (46_phase_engine). -/

namespace Sys2Proof.Claims

open Sys2Proof.Machine

/-- Settles O56: an absent target, and one case for each kind of answer, the empty data phases among them. -/
theorem commandPhaseCompletes : Obligations.CommandPhaseCompletes := by
  unfold Obligations.CommandPhaseCompletes
  intro i s ph count addr hmove hsto hph hphase n cdb s1 s2
  cases hpresent : (askPresent s.sdid s).1 with
  | false =>
    rw [if_neg Bool.false_ne_true]
    refine exec_blockMove_of_handler hmove hsto hph ?_
    rw [runHandler_command (by exact hphase), commandPhase_of_absent (by exact hpresent), cdbRead_eq]
    rfl
  | true =>
    rw [if_pos rfl]
    refine exec_blockMove_of_handler hmove hsto hph ?_
    rw [runHandler_command (by exact hphase)]
    rcases hreply : (askCommand s.sdid cdb s1).1 with (_ | ⟨b, bs⟩) | (_ | k) | _
    all_goals
      rw [commandPhase_of_present (by exact hpresent) (by exact hreply), cdbRead_eq]
      rfl

/-- Settles O57: the status byte is stored as in the state on entry, since no loaded register has a part in it. -/
theorem statusPhaseCompletes : Obligations.StatusPhaseCompletes := by
  unfold Obligations.StatusPhaseCompletes
  intro i s ph count addr hmove hsto hph hphase
  refine exec_blockMove_of_handler hmove hsto hph ?_
  obtain ⟨hmem, hio⟩ := dmaWrite_congr { s with dbc := count, rbc := count, dnad := addr } (t := s) addr
    [s.status] rfl rfl rfl
  rw [runHandler_status (by exact hphase), statusPhase_eq, hmem, hio, dmaWrite_frame s]

/-- Settles O58: the bytes sent, then the pending action, which sending them does not change, if none is left. -/
theorem messageInCompletes : Obligations.MessageInCompletes := by
  unfold Obligations.MessageInCompletes
  intro i s ph count addr hmove hsto hph hphase n s1 sent
  refine exec_blockMove_of_handler hmove hsto hph ?_
  have hsent : sendMessages { s with dbc := count, rbc := count, dnad := addr } = { sent with rbc := count } := by
    obtain ⟨hmem, hio⟩ := dmaWrite_congr { s with dbc := count, rbc := count, dnad := addr } (t := s1) addr
      (s.msg.take n) rfl rfl rfl
    rw [sendMessages_eq]
    by_cases hn : n = 0
    · rw [if_pos (by exact hn), show sent = s1 from if_pos hn]
    · rw [if_neg (by exact hn), show sent = _ from if_neg hn, hmem, hio, dmaWrite_frame s1]
  have haction : sent.msgAction = s.msgAction := by
    rw [← sendMessages_msgAction { s with dbc := count, rbc := count, dnad := addr }, hsent]
  rw [runHandler_msgIn (by exact hphase), messageIn_eq, hsent]
  by_cases hleft : n < s.msg.length
  · rw [if_pos (by exact hleft), if_pos hleft]
  · rw [if_neg (by exact hleft), if_neg hleft, doMsgAction_of_eq _ s.msgAction (by exact haction)]
    cases s.msgAction <;> rfl

/-- Settles O59: the bookkeeping still finds the count in `rbc`, and the loop is that of its rule. -/
theorem messageOutCompletes : Obligations.MessageOutCompletes := by
  unfold Obligations.MessageOutCompletes
  refine ⟨fun i s ph count addr hmove hsto hph hphase => ?_, messageOut_eq⟩
  rw [exec_blockMove_of_phase hmove hsto hph, runHandler_msgOut (by exact hphase)]
  exact congrArg _ (blockBookkeeping_eq count _ (messageOutLoop_rbc _ _))

end Sys2Proof.Claims
end

section
/-! Taking an exception (60_exceptions R335 to R337). -/

namespace Sys2Proof.Claims

open Sys2Proof.Machine

/-- The stop condition of R336, read as the rule writes it. -/
theorem scsiStop_eq (stop : Bool) (x : Byte) (y : BitVec 3) :
    (stop || x != 0#8 || y &&& 3#3 != 0#3) = (stop || decide (x ≠ 0#8 ∨ y &&& 3#3 ≠ 0#3)) := by
  rw [Bool.eq_iff_iff]
  simp [or_assoc]

/-- `RaiseSCSI` written from its rule (60_exceptions R336). -/
theorem raiseScsi_eq (x : Byte) (y : BitVec 3) (s : State) :
    raiseScsi x y s = lined { s with
      sist0 := s.sist0 ||| x
      sist1 := s.sist1 ||| y
      sstop := s.sstop || decide (s.sist0 ||| x ≠ 0#8 ∨ (s.sist1 ||| y) &&& 3#3 ≠ 0#3) } := by
  rw [lined_eq, raiseScsi, scsiStop_eq]

/-- `RaiseDMA` written from its rule (60_exceptions R337). -/
theorem raiseDma_eq (d : Byte) (s : State) :
    raiseDma d s = lined { s with dstat := s.dstat ||| (d &&& 0x7D#8).setWidth 7, sstop := true } := by
  rw [lined_eq, raiseDma]

/-- Settles O32: the line is the same expression in both, and so is the stop condition of `RaiseSCSI`. -/
theorem causesLatchAndStop : Obligations.CausesLatchAndStop := by
  unfold Obligations.CausesLatchAndStop
  exact fun s => ⟨fun x y => raiseScsi_eq x y s, fun d => raiseDma_eq d s, (lined_eq s).symm⟩

end Sys2Proof.Claims
end

section
/-! Hard reset as the next external event (70_reset R370, R371). -/

namespace Sys2Proof.Claims

open Sys2Proof.Machine

/-- Between activations a step is one external event (70_reset R375). -/
theorem step_of_not_inRun {s : State} (hout : s.inRun = false) : step s = .next (externalEvent s) := by
  rw [step, hout, if_neg Bool.false_ne_true]

/-- The first event listed lands, on the state that lists the others. -/
theorem externalEvent_cons {s : State} {e : HostEvent} {rest : List HostEvent} (hnext : s.inbox = e :: rest) :
    externalEvent s = hostEvent e { s with inbox := rest } := by
  rw [externalEvent, hnext]

/-- With no cause latched the line is low, whatever is enabled (60_exceptions R335). -/
theorem irqValue_of_no_cause {s : State} (hdma : s.dstat = 0#7) (hscsi0 : s.sist0 = 0#8) (hscsi1 : s.sist1 = 0#3)
    (hfly : s.intf = false) : irqValue s = false := by
  simp [irqValue, hdma, hscsi0, hscsi1, hfly]

/-- `Reset` without the recomputation of the line: no cause is latched, and the line is low as in
`State.reset` (70_reset R371). -/
theorem resetCore_eq (s : State) :
    resetCore s = { State.reset with
      mem := s.mem, params := s.params, inRun := s.inRun, inbox := s.inbox, io := s.io } := by
  rw [resetCore, updateIrq, irqValue_of_no_cause rfl rfl rfl rfl]
  rfl

/-- Settles O21: the step is the event, the event is `Reset`, and `State.reset` lists the values of R371. -/
theorem hardResetSetsEveryElement : Obligations.HardResetSetsEveryElement := by
  unfold Obligations.HardResetSetsEveryElement
  intro s rest hout hnext
  rw [step_of_not_inRun hout, externalEvent_cons hnext, hostEvent, resetCore_eq, hout]
  rfl

end Sys2Proof.Claims
end

section
/-! SUPPORT. What a step does to an invariant, said once: an invariant that every chain of updates keeps and that
does not look at the place in the run loop is kept by every step. -/

namespace Sys2Proof.Machine

variable {s t : State}

/-! ### Steps as chains of updates -/

/-- The fetch changes the count of fetches, and else only fields that no update names. -/
theorem fetched_evolves (s : State) : Evolves { s with icount := s.icount + 1 } (fetched s) := by
  unfold fetched
  split
  · exact .same
  · exact .of_tracked (by constructor <;> rfl)

theorem fetched_icount (s : State) : (fetched s).icount = s.icount + 1 := by
  unfold fetched
  split <;> rfl

/-- Every host event but a tick is a chain of updates. -/
theorem hostEvent_evolves {e : HostEvent} (h : e ≠ .tick) (s : State) : Evolves s (hostEvent e s) := by
  cases e with
  | read off =>
    exact (Evolves.same.regReadEffect (regAt off)).quiet _ (by constructor <;> rfl)
  | write off b => exact Evolves.same.regWrite off b
  | reset => exact Evolves.same.reset
  | tick => exact absurd rfl h
  | memStore addr b => exact Evolves.same.memory addr [b]

/-- A tick begins an activation or does nothing. -/
theorem tick_cases (s : State) :
    (running s = true ∧ tick s = enterRun s) ∨ (running s = false ∧ tick s = s) := by
  unfold tick
  cases hr : running s
  · exact .inr ⟨rfl, if_neg Bool.false_ne_true⟩
  · exact .inl ⟨rfl, if_pos rfl⟩

/-- With no event listed the Scheduler ticks (log 4). -/
theorem externalEvent_nil {s : State} (h : s.inbox = []) : externalEvent s = tick s := by
  rw [externalEvent, h]

/-- Between activations: a tick, on the state with or without the tick listed, or another event. -/
theorem externalEvent_cases (s : State) :
    (∃ rest, externalEvent s = tick { s with inbox := rest }) ∨
    (∃ e rest, s.inbox = e :: rest ∧ e ≠ .tick ∧ externalEvent s = hostEvent e { s with inbox := rest }) := by
  cases hbox : s.inbox with
  | nil => exact .inl ⟨s.inbox, externalEvent_nil hbox⟩
  | cons e rest =>
    rw [Claims.externalEvent_cons hbox]
    by_cases he : e = .tick
    · subst he
      exact .inl ⟨rest, rfl⟩
    · exact .inr ⟨e, rest, rfl, he, rfl⟩

/-- What the run loop does after an instruction is a chain of updates, and then perhaps the end of the
activation. -/
theorem endOfInstruction_evolves (t : State) :
    ∃ u, Evolves t u ∧ (endOfInstruction t = u ∨ endOfInstruction t = leaveRun u) := by
  rcases Evolves.endOfInstruction_cases t with ⟨u, hu, e⟩ | ⟨e, -, -⟩
  · exact ⟨u, hu, .inr e⟩
  · exact ⟨t, .same, .inl e⟩

/-- An invariant of the chains that does not look at the count of fetches, at `inRun` or at the events to come is
an invariant of the steps. -/
theorem step_keeps {P : State → Prop} (chain : ∀ {s t}, Evolves s t → P s → P t)
    (place : ∀ s n r e, P s → P { s with icount := n, inRun := r, inbox := e })
    (h : step s = .next t) (hp : P s) : P t := by
  have leave {u : State} (hu : P u) : P (leaveRun u) := place u u.icount false u.inbox hu
  have enter {u : State} (hu : P u) : P (enterRun u) :=
    chain (.of_tracked (s := { u with icount := 0, inRun := true, inbox := u.inbox })
      (by constructor <;> rfl)) (place u 0 true u.inbox hu)
  rcases step_cases h with ⟨-, -, u, hu, rfl⟩ | ⟨-, -, rfl⟩ | ⟨-, rfl⟩
  · have hfetched : P (fetched s) :=
      chain (fetched_evolves s) (place s (s.icount + 1) s.inRun s.inbox hp)
    obtain ⟨v, hv, e | e⟩ := endOfInstruction_evolves u <;> rw [e]
    · exact chain hv (chain (exec_evolves hu) hfetched)
    · exact leave (chain hv (chain (exec_evolves hu) hfetched))
  · exact leave hp
  · rcases externalEvent_cases s with ⟨rest, e⟩ | ⟨ev, rest, -, hev, e⟩ <;> rw [e]
    · have hbox := place s s.icount s.inRun rest hp
      rcases tick_cases { s with inbox := rest } with ⟨-, e⟩ | ⟨-, e⟩ <;> rw [e]
      · exact enter hbox
      · exact hbox
    · exact chain (hostEvent_evolves hev _) (place s s.icount s.inRun rest hp)

/-! ### What the chains keep -/

/-- No update moves the place in the run loop, takes an event or changes a parameter. -/
theorem Evolves.place (h : Evolves s t) : t.inRun = s.inRun ∧ t.inbox = s.inbox ∧ t.params = s.params := by
  induction h with
  | same => exact ⟨rfl, rfl, rfl⟩
  | quiet u _ q ih => rwa [q.inRun, q.inbox, q.params]
  | cause c _ ih => cases c <;> exact ih
  | _ => assumption

/-- Every update keeps the canonical form of guest memory. -/
theorem Evolves.memoryCanonical (h : Evolves s t) (hs : MemoryCanonical s) : MemoryCanonical t := by
  induction h with
  | same => exact hs
  | quiet u _ q ih => rwa [MemoryCanonical, q.mem]
  | memory addr bs _ ih => exact Memory.wf_store ih addr bs
  | cause c _ ih => cases c <;> exact ih
  | _ => assumption

/-- Every update that changes a cause or an enable recomputes the line. -/
theorem Evolves.lineFollowsCauses (h : Evolves s t) (hs : LineFollowsCauses s) : LineFollowsCauses t := by
  induction h with
  | same => exact hs
  | quiet u _ q ih =>
    rw [LineFollowsCauses, irqValue, q.irq, q.dstat, q.dien, q.sist0, q.sien0, q.sist1, q.sien1, q.intf]
    exact ih
  | cause c _ ih => exact raise_irq _ c
  | enables | flag | clearDstat | clearSist0 | clearSist1 | reset => rfl
  | _ => assumption

end Sys2Proof.Machine
end

section
/-! SUPPORT. What the chains of updates keep of the protocol's bounds, of the request's direction and of the bits
that nothing stores or raises. -/

namespace Sys2Proof.Machine

variable {s t u : State}

/-! ### The protocol's bounds -/

/-- 10_state R44 but for `waiting`, which a data phase sets and clears again within one instruction. -/
structure BufferBounds (s : State) : Prop where
  messages : s.msg.length ≤ Config.msgMax
  request : ∀ r, s.request = some r → r.pos ≤ r.dmaLen

theorem protocolBounds_iff (s : State) : ProtocolBounds s ↔ BufferBounds s ∧ s.waiting ≠ .dma :=
  ⟨fun h => ⟨⟨h.messages, h.request⟩, h.waiting⟩, fun h => ⟨h.1.messages, h.2, h.1.request⟩⟩

theorem BufferBounds.of_eq (h : BufferBounds t) (hmsg : u.msg = t.msg) (hreq : u.request = t.request) :
    BufferBounds u :=
  ⟨hmsg ▸ h.messages, hreq ▸ h.request⟩

/-- Every update keeps the message buffer and the request's position within their bounds. -/
theorem Evolves.bufferBounds (h : Evolves s t) (hs : BufferBounds s) : BufferBounds t := by
  induction h with
  | same => exact hs
  | quiet u _ q ih => exact ih.of_eq q.msg q.request
  | cause c _ ih => cases c <;> exact ih.of_eq rfl rfl
  | leaveBus _ ih | dropRequest _ ih => exact ⟨ih.messages, fun r hr => nomatch hr⟩
  | requestOut r _ hp _ ih | requestIn r _ hp _ ih => exact ⟨ih.messages, fun r' hr => by cases hr; exact hp⟩
  | advance r r' hr _ hp _ ih => exact ⟨ih.messages, fun r'' h => by cases h; exact hp (ih.request r hr)⟩
  | @queue t b _ ih =>
    refine ⟨?_, ih.request⟩
    rw [addMsgByte_msg]
    split
    · rw [List.length_append, List.length_singleton]
      omega
    · exact ih.messages
  | @drain t n _ ih => exact ⟨(List.length_drop (l := t.msg) ▸ Nat.sub_le ..).trans ih.messages, ih.request⟩
  | reset _ _ => exact ⟨Nat.zero_le _, fun r hr => nomatch hr⟩
  | _ =>
    rename_i ih
    exact ih.of_eq rfl rfl

/-! ### The request's direction -/

theorem RequestMatchesPhase.of_eq (h : RequestMatchesPhase t) (hact : u.msgAction = t.msgAction)
    (hphase : u.phase = t.phase) (hreq : u.request = t.request) : RequestMatchesPhase u :=
  ⟨hact ▸ h.action, hphase ▸ hreq ▸ h.out, hphase ▸ hreq ▸ h.inp⟩

/-- Without a request only the armed action matters. -/
theorem RequestMatchesPhase.of_no_request (hact : u.msgAction = .command ∨ u.msgAction = .disconnect)
    (hreq : u.request = none) : RequestMatchesPhase u :=
  ⟨hact, fun _ _ hr => (nomatch hreq ▸ hr), fun _ _ hr => (nomatch hreq ▸ hr)⟩

/-- A request comes with the phase of its direction and goes with the phase, and Message-In actions 2 and 3 are
never armed. -/
theorem Evolves.requestMatchesPhase (h : Evolves s t) (hs : RequestMatchesPhase s) : RequestMatchesPhase t := by
  induction h with
  | same => exact hs
  | quiet u _ q ih => exact ih.of_eq q.msgAction q.phase q.request
  | cause c _ ih => cases c <;> exact ih.of_eq rfl rfl rfl
  | toPhase p h1 h2 _ ih => exact ⟨ih.action, fun hp => absurd hp h1, fun hp => absurd hp h2⟩
  | actOut ha _ ih | actIn ha _ ih => rcases ih.action with h | h <;> rw [ha] at h <;> cases h
  | leaveBus _ ih | dropRequest _ ih => exact .of_no_request ih.action rfl
  | requestOut r hd _ _ ih => exact ⟨ih.action, fun _ r' hr => by cases hr; exact hd, fun hp => nomatch hp⟩
  | requestIn r hd _ _ ih => exact ⟨ih.action, fun hp => (nomatch hp), fun _ r' hr => by cases hr; exact hd⟩
  | advance r r' hr hd _ _ ih =>
    refine ⟨ih.action, fun hp r'' h => ?_, fun hp r'' h => ?_⟩ <;> cases h <;> rw [hd]
    · exact ih.out hp r hr
    · exact ih.inp hp r hr
  | action a ha _ ih => exact ⟨ha, ih.out, ih.inp⟩
  | reset _ _ => exact .of_no_request (.inl rfl) rfl
  | _ =>
    rename_i ih
    exact ih.of_eq rfl rfl rfl

/-! ### The bits that stay 0 -/

theorem ReservedBitsClear.of_eq (h : ReservedBitsClear t) (hscntl1 : u.scntl1 = t.scntl1)
    (hscntl2 : u.storage.scntl2 = t.storage.scntl2) (hsstat0 : u.sstat0 = t.sstat0) (hdien : u.dien = t.dien)
    (hdcntl : u.dcntl = t.dcntl) (hsist0 : u.sist0 = t.sist0) (hsist1 : u.sist1 = t.sist1)
    (hdstat : u.dstat = t.dstat) : ReservedBitsClear u :=
  ⟨hscntl1 ▸ h.scntl1, hscntl2 ▸ h.scntl2, hsstat0 ▸ h.sstat0, hdien ▸ h.dien, hdcntl ▸ h.dcntl,
    hsist0 ▸ h.sist0, hsist1 ▸ h.sist1, hdstat ▸ h.dstat⟩

/-- Bits outside a mask may be set. -/
theorem or_and_eq_zero {n : Nat} {v x m : BitVec n} (hv : v &&& m = 0#n) (hx : x &&& m = 0#n) :
    (v ||| x) &&& m = 0#n := by
  rw [BitVec.and_comm, BitVec.and_or_distrib_left, BitVec.and_comm m v, BitVec.and_comm m x, hv, hx,
    BitVec.or_zero]

/-- A cause sets none of the bits that stay 0 (60_exceptions R330). -/
theorem raise_reservedBitsClear (c : Cause) (h : ReservedBitsClear t) : ReservedBitsClear (raise c t) := by
  cases c with
  | ma | udc | rst | sto =>
    exact { h with sist0 := or_and_eq_zero h.sist0 rfl, sist1 := or_and_eq_zero h.sist1 rfl }
  | abrt | ssi | sir | iid => exact { h with dstat := or_and_eq_zero h.dstat rfl }

theorem and_ef_and_01 : ∀ v : Byte, v &&& 0x01#8 = 0#8 → (v &&& 0xEF#8) &&& 0x01#8 = 0#8 := by decide

/-- No update stores or raises a bit that stays 0. -/
theorem Evolves.reservedBitsClear (h : Evolves s t) (hs : ReservedBitsClear s) : ReservedBitsClear t := by
  induction h with
  | same => exact hs
  | quiet u _ q ih => exact ih.of_eq q.scntl1 q.scntl2 q.sstat0 q.dien q.dcntl q.sist0 q.sist1 q.dstat
  | cause c _ ih => exact raise_reservedBitsClear c ih
  | enables a b c hc _ ih => exact { ih with dien := hc ih.dien }
  | clearDstat _ ih => exact { ih with dstat := BitVec.zero_and }
  | clearSist0 _ ih => exact { ih with sist0 := BitVec.zero_and }
  | clearSist1 _ ih => exact { ih with sist1 := BitVec.zero_and }
  | leaveBus _ ih => exact { ih with scntl1 := and_ef_and_01 _ ih.scntl1 }
  | scntl1 v _ hv ih => exact { ih with scntl1 := hv ih.scntl1 }
  | scntl2 v hv _ ih => exact { ih with scntl2 := hv }
  | sstat0 v _ hv ih => exact { ih with sstat0 := hv ih.sstat0 }
  | dcntl v hv _ ih => exact { ih with dcntl := hv }
  | reset _ _ => constructor <;> exact BitVec.zero_and
  | _ =>
    rename_i ih
    exact ih.of_eq rfl rfl rfl rfl rfl rfl rfl rfl

end Sys2Proof.Machine
end

section
/-! The statements on what every step keeps (O12, O14, O15, O17, O18, O19), and on reset (O20). -/

namespace Sys2Proof.Claims

open Sys2Proof.Machine

/-- Settles O14, by the chains of updates. -/
theorem stepKeepsMemoryCanonical : Obligations.StepKeepsMemoryCanonical := by
  unfold Obligations.StepKeepsMemoryCanonical
  exact fun s t hs h => step_keeps Evolves.memoryCanonical (fun _ _ _ _ hp => hp) h hs

/-- Settles O15, by the chains of updates. -/
theorem stepKeepsLineOfCauses : Obligations.StepKeepsLineOfCauses := by
  unfold Obligations.StepKeepsLineOfCauses
  exact fun s t hs h => step_keeps Evolves.lineFollowsCauses (fun _ _ _ _ hp => hp) h hs

/-- Settles O17, by the chains of updates. -/
theorem stepKeepsRequestDirection : Obligations.StepKeepsRequestDirection := by
  unfold Obligations.StepKeepsRequestDirection
  exact fun s t hs h => step_keeps Evolves.requestMatchesPhase (fun _ _ _ _ hp => hp.of_eq rfl rfl rfl) h hs

/-- Settles O18, by the chains of updates. -/
theorem stepKeepsReservedBits : Obligations.StepKeepsReservedBits := by
  unfold Obligations.StepKeepsReservedBits
  exact fun s t hs h => step_keeps Evolves.reservedBitsClear
    (fun _ _ _ _ hp => hp.of_eq rfl rfl rfl rfl rfl rfl rfl rfl) h hs

/-- Settles O19: past the budget the run loop ends the activation, and only `Run()` begins one, at 0. -/
theorem stepKeepsWithinBudget : Obligations.StepKeepsWithinBudget := by
  unfold Obligations.StepKeepsWithinBudget
  intro s t _ h hrun
  rcases step_cases h with ⟨-, -, u, -, rfl⟩ | ⟨-, -, rfl⟩ | ⟨hout, rfl⟩
  · rcases Evolves.endOfInstruction_cases u with ⟨v, -, e⟩ | ⟨e, -, hcount⟩ <;> rw [e] at hrun ⊢
    · cases hrun
    · exact hcount
  · cases hrun
  · rcases externalEvent_cases s with ⟨rest, e⟩ | ⟨ev, rest, -, hev, e⟩ <;> rw [e] at hrun ⊢
    · rcases tick_cases { s with inbox := rest } with ⟨-, e⟩ | ⟨-, e⟩ <;> rw [e] at hrun ⊢
      · exact Nat.zero_le _
      · exact absurd hrun (ne_true_of_eq_false hout)
    · rw [(hostEvent_evolves hev _).place.1] at hrun
      exact absurd hrun (ne_true_of_eq_false hout)

/-- Settles O12: inside an activation a step is one instruction, which is a chain of updates, and the run loop's
checks. -/
theorem activationsShutTheHostOut : Obligations.ActivationsShutTheHostOut := by
  unfold Obligations.ActivationsShutTheHostOut
  intro s t hrun h
  have fetch : (fetched s).inbox = s.inbox ∧ (fetched s).params = s.params := (fetched_evolves s).place.2
  rcases step_cases h with ⟨-, -, u, hu, rfl⟩ | ⟨-, -, rfl⟩ | ⟨hout, -⟩
  · obtain ⟨-, hbox, hparams⟩ := (exec_evolves hu).place
    obtain ⟨v, hv, e⟩ := endOfInstruction_evolves u
    obtain ⟨-, hbox', hparams'⟩ := hv.place
    rcases e with e | e <;> rw [e]
    all_goals exact ⟨hbox'.trans (hbox.trans fetch.1), hparams'.trans (hparams.trans fetch.2)⟩
  · exact ⟨rfl, rfl⟩
  · exact absurd hrun (ne_true_of_eq_false hout)

/-- Settles O20, by the values of `State.reset`. -/
theorem resetHasEveryInvariant : Obligations.ResetHasEveryInvariant := by
  unfold Obligations.ResetHasEveryInvariant
  exact ⟨rfl, rfl, ⟨Nat.zero_le _, by decide, fun _ hr => nomatch hr⟩, .of_no_request (.inl rfl) rfl,
    ⟨rfl, rfl, rfl, rfl, rfl, rfl, rfl, rfl⟩, fun hrun => nomatch hrun⟩

end Sys2Proof.Claims
end

section
/-! SUPPORT. What a write of one register leaves: every other register's byte, the causes, the stop (11_register_bank
R51 to R77). -/

namespace Sys2Proof.Machine

/-! ### The registers by their offsets -/

theorem regAt_eq_istat_iff : ∀ off : Byte, regAt off = .istat ↔ off = 0x14#8 := by decide

theorem regAt_eq_scntl1_iff : ∀ off : Byte, regAt off = .scntl1 ↔ off = 0x01#8 := by decide

theorem regAt_eq_dspTop_iff : ∀ off : Byte, regAt off = .dsp 3 ↔ off = 0x2F#8 := by decide

theorem regAt_eq_dcntl_iff : ∀ off : Byte, regAt off = .dcntl ↔ off = 0x3B#8 := by decide

/-! ### The stop and the causes -/

/-- `sstop` changes only through SCNTL1 (its cause), ISTAT, DSP's top lane and DCNTL. -/
theorem regWriteAt_sstop {r : BankReg} (h1 : r ≠ .scntl1) (h2 : r ≠ .istat) (h3 : r ≠ .dsp 3) (h4 : r ≠ .dcntl)
    (b : Byte) (s : State) : (regWriteAt r b s).sstop = s.sstop := by
  cases r
  case scntl1 => exact absurd rfl h1
  case istat => exact absurd rfl h2
  case dsp k => rw [regWriteAt, writeDsp_of_ne_top fun hk => h3 (congrArg _ hk)]
  case dcntl => exact absurd rfl h4
  all_goals rfl

/-- SIST0 changes only through SCNTL1 and ISTAT. -/
theorem regWriteAt_sist0 {r : BankReg} (h1 : r ≠ .scntl1) (h2 : r ≠ .istat) (b : Byte) (s : State) :
    (regWriteAt r b s).sist0 = s.sist0 := by
  cases r
  case scntl1 => exact absurd rfl h1
  case istat => exact absurd rfl h2
  case dsp k =>
    unfold regWriteAt writeDsp
    dsimp only
    split <;> rfl
  case dcntl => rw [regWriteAt, writeDcntl_eq]
  all_goals rfl

/-- Storing SCNTL1 or ISTAT may stop the interpreter and never starts it. -/
theorem writeScntl1_sstop {s : State} (hs : s.sstop = true) (b : Byte) : (writeScntl1 b s).sstop = true := by
  unfold writeScntl1
  dsimp only
  split_ifs
  · exact hs
  · exact raise_sstop _ .rst (by decide)
  · exact hs

theorem writeIstat_sstop {s : State} (hs : s.sstop = true) (b : Byte) : (writeIstat b s).sstop = true := by
  unfold writeIstat
  dsimp only
  split_ifs <;> first | exact hs | rfl

/-- A bank write starts a stopped interpreter only as one of the two Start writes (40_dispatch R166). -/
theorem start_of_regWriteAt {r : BankReg} {b : Byte} {s : State} (hs : s.sstop = true)
    (ht : (regWriteAt r b s).sstop = false) :
    (r = .dsp 3 ∧ s.dmode.getLsbD 0 = false) ∨ (r = .dcntl ∧ b.getLsbD 2 = true) := by
  have still (h : (regWriteAt r b s).sstop = true) : False := by rw [h] at ht; cases ht
  by_cases h1 : r = .scntl1
  · subst h1
    exact (still (writeScntl1_sstop hs b)).elim
  by_cases h2 : r = .istat
  · subst h2
    exact (still (writeIstat_sstop hs b)).elim
  by_cases h3 : r = .dsp 3
  · subst h3
    rw [regWriteAt, writeDsp_top, hs] at ht
    exact .inl ⟨rfl, ht⟩
  by_cases h4 : r = .dcntl
  · subst h4
    rw [regWriteAt, writeDcntl_eq, hs] at ht
    exact .inr ⟨rfl, by simpa using ht⟩
  · exact (still ((regWriteAt_sstop h1 h2 h3 h4 b s).trans hs)).elim

/-! ### Other registers -/

/-- The offset of a register that gives back what was written (R54); 0x80, which has no register, for another. -/
def BankReg.storedOffset : BankReg → Byte
  | .scntl0 => 0x00#8 | .scntl2 => 0x02#8 | .scntl3 => 0x03#8 | .scid => 0x04#8 | .sxfer => 0x05#8
  | .sdid => 0x06#8 | .sfbr => 0x08#8 | .socl => 0x09#8
  | .dsa k => 0x10#8 + BitVec.ofNat 8 k | .temp k => 0x1C#8 + BitVec.ofNat 8 k
  | .dfifo => 0x20#8 | .ctest4 => 0x21#8 | .ctest5 => 0x22#8 | .dbc k => 0x24#8 + BitVec.ofNat 8 k
  | .dnad k => 0x28#8 + BitVec.ofNat 8 k | .dsp k => 0x2C#8 + BitVec.ofNat 8 k
  | .dsps k => 0x30#8 + BitVec.ofNat 8 k | .dmode => 0x38#8 | .dien => 0x39#8 | .sbr => 0x3A#8
  | .sien0 => 0x40#8 | .sien1 => 0x41#8 | .stime0 => 0x48#8 | .stime1 => 0x49#8
  | .respid0 => 0x4A#8 | .respid1 => 0x4B#8 | .stest1 => 0x4D#8 | .stest2 => 0x4E#8 | .stest3 => 0x4F#8
  | .scratch j k => Claims.scratchOffset j k
  | _ => 0x80#8

theorem storedOffset_regAt :
    ∀ off : Byte, (regAt off).storedBits.isSome = true → (regAt off).storedOffset = off := by decide

/-- A register that gives back what was written has one offset. -/
theorem regAt_ne_of_ne {off other : Byte} (h : (regAt off).storedBits.isSome = true) (hne : other ≠ off) :
    regAt other ≠ regAt off := by
  intro he
  rw [← storedOffset_regAt off h, ← he, storedOffset_regAt other (by rw [he, h])] at hne
  exact hne rfl

/-- A write that stores changes one field, or one lane of one, which no other register shows (R52, R53). -/
theorem regValue_regWriteAt_of_ne {r other : BankReg} (h : r.storedBits.isSome = true) (hne : other ≠ r)
    (b : Byte) (s : State) : regValue other (regWriteAt r b s) = regValue other s := by
  cases r
  case dsa k | temp k | dnad k | dsps k =>
    cases other
    case dsa j | temp j | dnad j | dsps j =>
      first
      | rfl
      | exact lane_setLane_ne _ _ (by omega) fun hk => hne (congrArg _ (Fin.ext hk))
    all_goals rfl
  case dbc k =>
    cases other
    case dbc j => exact lane_setLane_ne _ _ (by omega) fun hk => hne (congrArg _ (Fin.ext hk))
    all_goals rfl
  case dsp k =>
    have hframe : writeDsp k b s = { s with dsp := setLane s.dsp k b, sstop := (writeDsp k b s).sstop } := by
      unfold writeDsp
      dsimp only
      split <;> rfl
    rw [regWriteAt, hframe]
    cases other
    case dsp j => exact lane_setLane_ne _ _ (by omega) fun hk => hne (congrArg _ (Fin.ext hk))
    all_goals rfl
  case scratch i k =>
    cases other
    case scratch j l =>
      simp only [regValue, regWriteAt, Fin.getElem_fin]
      by_cases hij : i = j
      · subst hij
        rw [Vector.getElem_set_self]
        exact lane_setLane_ne _ _ (by omega) fun hk => hne (congrArg _ (Fin.ext hk))
      · rw [Vector.getElem_set_ne _ _ fun he => hij (Fin.ext he)]
    all_goals rfl
  all_goals cases h
  all_goals cases other <;> first | rfl | exact absurd rfl hne

end Sys2Proof.Machine
end

section
/-! SUPPORT. What an access of the bank leaves beyond it: the elements that no register holds. -/

namespace Sys2Proof.Claims

open Sys2Proof.Machine

theorem SameHidden.refl (s : State) : SameHidden s s := by constructor <;> rfl

theorem SameHidden.trans {s t u : State} (h : SameHidden s t) (h' : SameHidden t u) : SameHidden s u where
  carry := h'.carry.trans h.carry
  phase := h'.phase.trans h.phase
  waiting := h'.waiting.trans h.waiting
  msg := h'.msg.trans h.msg
  msgAction := h'.msgAction.trans h.msgAction
  request := h'.request.trans h.request
  status := h'.status.trans h.status
  selAtn := h'.selAtn.trans h.selAtn
  currentLun := h'.currentLun.trans h.currentLun
  selectTag := h'.selectTag.trans h.selectTag
  tagValid := h'.tagValid.trans h.tagValid
  icount := h'.icount.trans h.icount
  rbc := h'.rbc.trans h.rbc
  yield := h'.yield.trans h.yield
  mem := h'.mem.trans h.mem
  params := h'.params.trans h.params
  io := h'.io.trans h.io
  inRun := h'.inRun.trans h.inRun
  inbox := h'.inbox.trans h.inbox

/-- A write of any offset but ISTAT. -/
theorem sameHidden_regWrite {off : Byte} (h : off ≠ 0x14#8) (b : Byte) (s : State) :
    SameHidden s (regWrite off b s) := by
  obtain ⟨carry, phase, waiting, msg, msgAction, request, status, selAtn, currentLun, selectTag, tagValid, icount,
    rbc, yield, mem, params, io, inRun, inbox, -⟩ := regWriteAt_frame (regAt off) b s (mt (regAt_eq_istat_iff off).1 h)
  exact { carry, phase, waiting, msg, msgAction, request, status, selAtn, currentLun, selectTag, tagValid, icount,
          rbc, yield, mem, params, io, inRun, inbox }

/-- A read of any offset. -/
theorem sameHidden_regRead (off : Byte) (s : State) : SameHidden s (regRead off s).2 := by
  rw [regRead, regReadEffect_frame]
  constructor <;> rfl

/-- A run of reads. -/
theorem sameHidden_regReads (off : Byte) (n : Nat) (s : State) : SameHidden s (regReads off n s).2 := by
  induction n generalizing off s with
  | zero => exact .refl s
  | succ n ih => exact (sameHidden_regRead off s).trans (ih (off + 1#8) (regRead off s).2)

end Sys2Proof.Claims
end

section
/-! The statements on writes of the bank (11_register_bank) and on the restart of the interpreter (40_dispatch). -/

namespace Sys2Proof.Claims

open Sys2Proof.Machine

/-- Settles O23: two offsets show two registers, if the written one stores anything. -/
theorem bankWriteTouchesOneByte : Obligations.BankWriteTouchesOneByte := by
  unfold Obligations.BankWriteTouchesOneByte
  intro off other b m s hm hne
  rw [storedMask_eq] at hm
  have hstored : (regAt off).storedBits.isSome = true := by rw [hm]; rfl
  exact regValue_regWriteAt_of_ne hstored (regAt_ne_of_ne hstored hne) b s

/-- Settles O31: the frame of a register, with the offsets of those that raise a cause, stop or start. -/
theorem bankWriteFrame : Obligations.BankWriteFrame := by
  unfold Obligations.BankWriteFrame
  intro off b s hoff
  have histat := mt (regAt_eq_istat_iff off).1 hoff
  obtain ⟨-, -, -, -, -, -, -, -, -, -, -, -, -, -, -, -, -, -, -, hdstat, hsist1, hintf, hhi⟩ :=
    regWriteAt_frame (regAt off) b s histat
  refine ⟨sameHidden_regWrite hoff b s, hdstat, hsist1, hintf, hhi, fun h1 => ?sist0, fun hmem => ?sstop⟩
  case sist0 => exact regWriteAt_sist0 (mt (regAt_eq_scntl1_iff off).1 h1) histat b s
  case sstop =>
    simp only [List.mem_cons, List.not_mem_nil, or_false, not_or] at hmem
    obtain ⟨h1, h2f, h3b⟩ := hmem
    exact regWriteAt_sstop (mt (regAt_eq_scntl1_iff off).1 h1) histat (mt (regAt_eq_dspTop_iff off).1 h2f)
      (mt (regAt_eq_dcntl_iff off).1 h3b) b s

theorem tick_sstop (s : State) : (tick s).sstop = s.sstop := by
  rcases tick_cases s with ⟨-, e⟩ | ⟨-, e⟩ <;> rw [e]
  rfl

/-- The only events that start a stopped interpreter. -/
theorem hostEvent_sstop {e : HostEvent} {s : State} (hs : s.sstop = true) (ht : (hostEvent e s).sstop = false) :
    ∃ b, (e = .write 0x2F#8 b ∧ s.dmode.getLsbD 0 = false) ∨ (e = .write 0x3B#8 b ∧ b.getLsbD 2 = true) := by
  have still (h : (hostEvent e s).sstop = true) : False := by rw [h] at ht; cases ht
  cases e with
  | read off =>
    refine (still ?_).elim
    change (regReadEffect (regAt off) s).sstop = true
    rw [regReadEffect_frame]
    exact hs
  | write off b =>
    refine ⟨b, (start_of_regWriteAt hs ht).imp (fun ⟨hr, hman⟩ => ⟨?_, hman⟩) (fun ⟨hr, hstd⟩ => ⟨?_, hstd⟩)⟩
    · rw [(regAt_eq_dspTop_iff off).1 hr]
    · rw [(regAt_eq_dcntl_iff off).1 hr]
  | reset => exact (still rfl).elim
  | tick => exact (still ((tick_sstop s).trans hs)).elim
  | memStore addr b => exact (still hs).elim

/-- Settles O11: inside an activation a stopped interpreter only leaves it; between activations only the two
Start writes start it. -/
theorem onlyStartRestarts : Obligations.OnlyStartRestarts := by
  unfold Obligations.OnlyStartRestarts
  intro s t h hs ht
  rcases step_cases h with ⟨-, hrun, -⟩ | ⟨-, -, rfl⟩ | ⟨hout, rfl⟩
  · simp [running, hs] at hrun
  · rw [leaveRun_sstop, hs] at ht
    cases ht
  · refine ⟨hout, ?_⟩
    rcases externalEvent_cases s with ⟨rest, e⟩ | ⟨ev, rest, hbox, -, e⟩ <;> rw [e] at ht
    · rw [tick_sstop] at ht
      exact absurd (hs.symm.trans ht) (by decide)
    · obtain ⟨b, ⟨rfl, hman⟩ | ⟨rfl, hstd⟩⟩ := hostEvent_sstop (s := { s with inbox := rest }) hs ht
      · exact ⟨b, rest, .inl ⟨hbox, hman⟩⟩
      · exact ⟨b, rest, .inr ⟨hbox, hstd⟩⟩

end Sys2Proof.Claims
end

section
/-! SUPPORT. The decoder on encoded words: the fields of each format's top byte and low bits, and that each format's
decoder gives back the operands that were written (30_encoding R132 to R137). -/

namespace Sys2Proof

/-! ### Fields at given positions -/

theorem bitAt_firstWord (top : Byte) (low : Word24) (i : Nat) :
    bitAt (firstWord top low) i = if i < 24 then low.getLsbD i else top.getLsbD (i - 24) :=
  getLsbD_firstWord top low i

theorem field_firstWord_of_le (top : Byte) (low : Word24) {lo : Nat} (len : Nat) (h : 24 ≤ lo) :
    field (firstWord top low) lo len = top.extractLsb' (lo - 24) len := by
  rw [← field_firstWord_top top low (lo - 24) len, Nat.add_sub_cancel' h]

theorem field_firstWord_all (top : Byte) (low : Word24) : field (firstWord top low) 0 24 = low := by
  rw [field_firstWord_low _ _ _ _ (by omega)]
  exact BitVec.extractLsb'_eq_self

@[simp] theorem field_word24 (d : Word24) : field (word24 d) 0 24 = d := field_firstWord_all 0#8 d

/-! ### Top bytes -/

theorem bmTop_fields : ∀ (ind tbl opc : Bool) (ph : BitVec 3),
    (bmTop ind tbl opc ph).extractLsb' 6 2 = 0#2 ∧ (bmTop ind tbl opc ph).getLsbD 5 = ind ∧
    (bmTop ind tbl opc ph).getLsbD 4 = tbl ∧ (bmTop ind tbl opc ph).extractLsb' 0 3 = ph ∧
    (bmTop ind tbl opc ph).extractLsb' 5 3 ≠ 6#3 := by decide

theorem ioTop_fields : ∀ (opc : BitVec 3) (rel tbl satn : Bool),
    (ioTop opc rel tbl satn).extractLsb' 6 2 = 1#2 ∧ (ioTop opc rel tbl satn).extractLsb' 3 3 = opc ∧
    (ioTop opc rel tbl satn).getLsbD 2 = rel ∧ (ioTop opc rel tbl satn).getLsbD 1 = tbl ∧
    (ioTop opc rel tbl satn).getLsbD 0 = satn ∧ (ioTop opc rel tbl satn).extractLsb' 5 3 ≠ 6#3 := by decide

/-- Formats RW and TC: two bits of class, OPC, and three bits (OPER or PH). -/
theorem opcTop_fields : ∀ (cls : BitVec 2) (opc c : BitVec 3),
    (cls ++ opc ++ c : Byte).extractLsb' 6 2 = cls ∧ (cls ++ opc ++ c : Byte).extractLsb' 3 3 = opc ∧
    (cls ++ opc ++ c : Byte).extractLsb' 0 3 = c ∧ (cls ++ opc ++ c : Byte).extractLsb' 3 2 = opc.extractLsb' 0 2 ∧
    (cls ++ opc ++ c : Byte).getLsbD 5 = opc.getLsbD 2 ∧
    (cls ≠ 3#2 → (cls ++ opc ++ c : Byte).extractLsb' 5 3 ≠ 6#3) := by decide

theorem lsTop_fields : ∀ dsaRel ld : Bool,
    (0b111#3 ++ BitVec.ofBool dsaRel ++ 0#3 ++ BitVec.ofBool ld : Byte).extractLsb' 6 2 = 3#2 ∧
    (0b111#3 ++ BitVec.ofBool dsaRel ++ 0#3 ++ BitVec.ofBool ld : Byte).getLsbD 5 = true ∧
    (0b111#3 ++ BitVec.ofBool dsaRel ++ 0#3 ++ BitVec.ofBool ld : Byte).getLsbD 4 = dsaRel ∧
    (0b111#3 ++ BitVec.ofBool dsaRel ++ 0#3 ++ BitVec.ofBool ld : Byte).getLsbD 0 = ld ∧
    (0b111#3 ++ BitVec.ofBool dsaRel ++ 0#3 ++ BitVec.ofBool ld : Byte).extractLsb' 5 3 ≠ 6#3 := by decide

/-! ### Low bits -/

theorem rwLow_fields (u : Bool) (reg imm : Byte) :
    let low : Word24 := BitVec.ofBool u ++ reg.extractLsb' 0 7 ++ imm ++ reg.extractLsb' 7 1 ++ 0#7
    low.getLsbD 23 = u ∧ (low.extractLsb' 7 1 ++ low.extractLsb' 16 7 : Byte) = reg ∧ low.extractLsb' 8 8 = imm := by
  intro low
  refine ⟨?_, ?_, ?_⟩
  · grind
  · apply BitVec.eq_of_getLsbD_eq
    intro i hi
    grind
  · apply BitVec.eq_of_getLsbD_eq
    intro i hi
    grind

/-- Bits 23:16 of a Transfer Control word (30_encoding R135). -/
def tcFlags (rel ct fly jt cd cp : Bool) : Byte :=
  BitVec.ofBool rel ++ 0#1 ++ BitVec.ofBool ct ++ BitVec.ofBool fly ++ BitVec.ofBool jt ++ BitVec.ofBool cd
    ++ BitVec.ofBool cp ++ 0#1

theorem tcWord_eq (opc : BitVec 3) (rel fly : Bool) (c : Cond) : tcWord opc rel fly c =
    firstWord (0b10#2 ++ opc ++ c.ph) (tcFlags rel c.ct fly c.jt c.cd c.cp ++ c.mask ++ c.data) := rfl

theorem tcFlags_bits : ∀ rel ct fly jt cd cp : Bool,
    (tcFlags rel ct fly jt cd cp).getLsbD 7 = rel ∧ (tcFlags rel ct fly jt cd cp).getLsbD 5 = ct ∧
    (tcFlags rel ct fly jt cd cp).getLsbD 4 = fly ∧ (tcFlags rel ct fly jt cd cp).getLsbD 3 = jt ∧
    (tcFlags rel ct fly jt cd cp).getLsbD 2 = cd ∧ (tcFlags rel ct fly jt cd cp).getLsbD 1 = cp := by decide

theorem getLsbD_threeBytes (high mid low : Byte) (k : Nat) :
    (high ++ mid ++ low : Word24).getLsbD (16 + k) = high.getLsbD k := by
  grind

theorem extractLsb'_threeBytes (high mid low : Byte) :
    (high ++ mid ++ low : Word24).extractLsb' 8 8 = mid ∧ (high ++ mid ++ low : Word24).extractLsb' 0 8 = low := by
  constructor <;> apply BitVec.eq_of_getLsbD_eq <;> intro i hi <;> grind

theorem lsLow_fields (reg : Byte) (n : BitVec 3) :
    (reg ++ 0#13 ++ n : Word24).extractLsb' 16 8 = reg ∧ (reg ++ 0#13 ++ n : Word24).extractLsb' 0 3 = n := by
  constructor <;> apply BitVec.eq_of_getLsbD_eq <;> intro i hi <;> grind

theorem directId_field (id : TargetId) : (0#4 ++ id ++ 0#16 : Word24).extractLsb' 16 4 = id := by
  apply BitVec.eq_of_getLsbD_eq
  intro i hi
  grind

theorem ioFlagBits_fields (f : IoFlags) :
    (ioFlagBits f).getLsbD 10 = f.carry ∧ (ioFlagBits f).getLsbD 9 = f.trg ∧ (ioFlagBits f).getLsbD 6 = f.ack ∧
    (ioFlagBits f).getLsbD 3 = f.atn := by
  obtain ⟨carry, trg, ack, atn⟩ := f
  revert carry trg ack atn
  decide

/-! ### Operands -/

theorem targetOf_word (t : Target) : targetOf t.isRel t.word = t := by
  cases t with
  | abs a => rfl
  | rel d => exact congrArg Target.rel (field_word24 d)

theorem lsAddrOf_word (a : LsAddr) : lsAddrOf a.isRel a.word = a := by
  cases a with
  | abs a => rfl
  | dsaRel d => exact congrArg LsAddr.dsaRel (field_word24 d)

theorem ofCode_code (op : AluOp) : AluOp.ofCode op.code = op := by
  cases op <;> rfl

/-- The flags of Set and Clear, from the flag bits or from a table offset that agrees with them. -/
theorem ioFlagsOf_firstWord {f : IoFlags} {tbl : Option Word24} (h : f.agree tbl = true) (top : Byte) :
    ioFlagsOf (firstWord top (tbl.getD (ioFlagBits f))) = f := by
  have hbits : (tbl.getD (ioFlagBits f)).getLsbD 10 = f.carry ∧ (tbl.getD (ioFlagBits f)).getLsbD 9 = f.trg ∧
      (tbl.getD (ioFlagBits f)).getLsbD 6 = f.ack ∧ (tbl.getD (ioFlagBits f)).getLsbD 3 = f.atn := by
    cases tbl with
    | none => exact ioFlagBits_fields f
    | some off =>
      simp only [IoFlags.agree, Bool.and_eq_true, beq_iff_eq] at h
      obtain ⟨⟨⟨hcarry, htrg⟩, hack⟩, hatn⟩ := h
      exact ⟨hcarry.symm, htrg.symm, hack.symm, hatn.symm⟩
  obtain ⟨hcarry, htrg, hack, hatn⟩ := hbits
  rw [ioFlagsOf, bitAt_firstWord_low _ _ 10 (by omega), bitAt_firstWord_low _ _ 9 (by omega),
    bitAt_firstWord_low _ _ 6 (by omega), bitAt_firstWord_low _ _ 3 (by omega), hcarry, htrg, hack, hatn]

/-- The table offset of an I/O word, if TBL is set in its top byte. -/
theorem tableOf_firstWord {top : Byte} {tbl : Option Word24} (h : top.getLsbD 1 = tbl.isSome) (low : Word24) :
    tableOf (firstWord top (tbl.getD low)) = tbl := by
  cases tbl <;> simp_all [tableOf, bitAt_firstWord, field_firstWord_all]

theorem idSourceOf_firstWord {top : Byte} {src : IdSource} (h : top.getLsbD 1 = src.isTable) :
    idSourceOf (firstWord top src.bits) = src := by
  cases src <;>
    simp_all [idSourceOf, bitAt_firstWord, field_firstWord_low, IdSource.isTable, IdSource.bits,
      directId_field]

/-! ### Classes (30_encoding R131) -/

section
variable {top : Byte} {low : Word24} (w1 w2 : Word)

theorem firstWord_ne_zero_of_class (h : top.extractLsb' 6 2 ≠ 0#2) : firstWord top low ≠ 0#32 := by
  rw [Ne, firstWord_eq_zero]
  rintro ⟨rfl, -⟩
  exact h rfl

theorem decodeWords_blockMove (hz : firstWord top low ≠ 0#32) (h : top.extractLsb' 6 2 = 0#2) :
    decodeWords (firstWord top low) w1 w2 = decodeBlockMove (firstWord top low) w1 := by
  simp [decodeWords, hz, field_firstWord_of_le, h]

theorem decodeWords_ioOrRegister (h : top.extractLsb' 6 2 = 1#2) :
    decodeWords (firstWord top low) w1 w2 = decodeIoOrRegister (firstWord top low) w1 := by
  simp [decodeWords, firstWord_ne_zero_of_class, field_firstWord_of_le, h]

theorem decodeWords_transferControl (h : top.extractLsb' 6 2 = 2#2) :
    decodeWords (firstWord top low) w1 w2 = decodeTransferControl (firstWord top low) w1 := by
  simp [decodeWords, firstWord_ne_zero_of_class, field_firstWord_of_le, h]

theorem decodeWords_memory (h : top.extractLsb' 6 2 = 3#2) :
    decodeWords (firstWord top low) w1 w2 = decodeMemory (firstWord top low) w1 w2 := by
  simp [decodeWords, firstWord_ne_zero_of_class, field_firstWord_of_le, h]

/-- All but the zero word and the Memory Moves take eight bytes (30_encoding R130). -/
theorem instrBytes_firstWord (hz : firstWord top low ≠ 0#32) (h : top.extractLsb' 5 3 ≠ 6#3) :
    instrBytes (firstWord top low) = 8 := by
  simp [instrBytes, hz, field_firstWord_of_le, h]

/-- The bytes of an instruction of two words decode to it when its words do. -/
theorem decode_encodeBytes_two {i : Instr} (rest : List Byte) (he : encode i = [firstWord top low, w1])
    (hz : firstWord top low ≠ 0#32) (h : top.extractLsb' 5 3 ≠ 6#3)
    (hd : decodeWords (firstWord top low) w1 0#32 = i) : decode (encodeBytes i ++ rest) = .ok (i, rest) := by
  rw [encodeBytes, he, decode_two _ _ _ (instrBytes_firstWord hz h), hd]

end

end Sys2Proof
end

section
/-! O1: decoding inverts encoding (30_encoding R130 to R139), format by format. -/

namespace Sys2Proof

/-- The encoding of an instruction decodes to it, whatever bytes follow. -/
def Decodes (i : Instr) : Prop := ∀ rest, decode (encodeBytes i ++ rest) = .ok (i, rest)

/-! ### Format BM (30_encoding R132) -/

theorem decodes_pad : Decodes .pad := fun rest => decode_one 0#32 rest rfl

theorem decodes_moveInd (ph : BitVec 3) (count : Word24) (ptr : Word) : Decodes (.moveInd ph count ptr) := by
  obtain ⟨hcls, hind, -, hph, h6⟩ := bmTop_fields true false false ph
  have hz : firstWord (bmTop true false false ph) count ≠ 0#32 := fun h =>
    (by decide : ∀ ph, bmTop true false false ph ≠ 0#8) ph ((firstWord_eq_zero _ _).1 h).1
  refine fun rest => decode_encodeBytes_two ptr rest rfl hz h6 ?_
  rw [decodeWords_blockMove _ _ hz hcls, decodeBlockMove, bitAt_firstWord_top _ _ 5, hind, if_pos rfl,
    field_firstWord_top _ _ 0, hph, field_firstWord_all]

theorem decodes_moveTbl (ph : BitVec 3) (off : Word24) : Decodes (.moveTbl ph off) := by
  obtain ⟨hcls, hind, htbl, hph, h6⟩ := bmTop_fields false true false ph
  have hz : firstWord (bmTop false true false ph) 0#24 ≠ 0#32 := fun h =>
    (by decide : ∀ ph, bmTop false true false ph ≠ 0#8) ph ((firstWord_eq_zero _ _).1 h).1
  refine fun rest => decode_encodeBytes_two _ rest rfl hz h6 ?_
  rw [decodeWords_blockMove _ _ hz hcls, decodeBlockMove, bitAt_firstWord_top _ _ 5, hind,
    if_neg Bool.false_ne_true, bitAt_firstWord_top _ _ 4, htbl, if_pos rfl, field_firstWord_top _ _ 0, hph,
    field_word24]

/-- The encoder's bit 27 keeps a Block Move of 0 bytes in Data-Out apart from PAD. -/
theorem moveWord_ne_zero (ph : BitVec 3) (count : Word24) :
    firstWord (bmTop false false (ph == 0#3 && count == 0#24) ph) count ≠ 0#32 := by
  rw [Ne, firstWord_eq_zero]
  rintro ⟨htop, rfl⟩
  exact (by decide : ∀ ph, bmTop false false (ph == 0#3 && 0#24 == 0#24) ph ≠ 0#8) ph htop

theorem decodes_move (ph : BitVec 3) (count : Word24) (addr : Word) : Decodes (.move ph count addr) := by
  obtain ⟨hcls, hind, htbl, hph, h6⟩ := bmTop_fields false false (ph == 0#3 && count == 0#24) ph
  have hz := moveWord_ne_zero ph count
  refine fun rest => decode_encodeBytes_two addr rest rfl hz h6 ?_
  rw [decodeWords_blockMove _ _ hz hcls, decodeBlockMove, bitAt_firstWord_top _ _ 5, hind,
    if_neg Bool.false_ne_true, bitAt_firstWord_top _ _ 4, htbl, if_neg Bool.false_ne_true,
    field_firstWord_top _ _ 0, hph, field_firstWord_all]

/-! ### Format IO (30_encoding R133) -/

section
variable {opc : BitVec 3} {satn tbl : Bool} {low : Word24} {alt : Target}

/-- An I/O instruction decodes when its class's decoder gives it back. -/
theorem decodes_io {i : Instr} (he : encode i = ioWords opc satn tbl low alt)
    (hd : decodeIoOrRegister (firstWord (ioTop opc alt.isRel tbl satn) low) alt.word = i) : Decodes i := by
  obtain ⟨hcls, -, -, -, -, h6⟩ := ioTop_fields opc alt.isRel tbl satn
  have hz : firstWord (ioTop opc alt.isRel tbl satn) low ≠ 0#32 := firstWord_ne_zero_of_class (by rw [hcls]; decide)
  exact fun rest => decode_encodeBytes_two _ rest he hz h6 ((decodeWords_ioOrRegister _ _ hcls).trans hd)

/-- What the class's decoder finds in an I/O word. -/
theorem decodeIoOrRegister_ioTop : decodeIoOrRegister (firstWord (ioTop opc alt.isRel tbl satn) low) alt.word =
    if opc = 0#3 then .select satn (idSourceOf (firstWord (ioTop opc alt.isRel tbl satn) low)) alt
    else if opc = 1#3 then .waitDisconnect (tableOf (firstWord (ioTop opc alt.isRel tbl satn) low)) alt
    else if opc = 2#3 then .waitReselect (tableOf (firstWord (ioTop opc alt.isRel tbl satn) low)) alt
    else if opc = 3#3 then .set (ioFlagsOf (firstWord (ioTop opc alt.isRel tbl satn) low))
      (tableOf (firstWord (ioTop opc alt.isRel tbl satn) low)) alt
    else if opc = 4#3 then .clear (ioFlagsOf (firstWord (ioTop opc alt.isRel tbl satn) low))
      (tableOf (firstWord (ioTop opc alt.isRel tbl satn) low)) alt
    else decodeIoOrRegister (firstWord (ioTop opc alt.isRel tbl satn) low) alt.word := by
  obtain ⟨-, hopc, hrel, -, hsatn, -⟩ := ioTop_fields opc alt.isRel tbl satn
  have halt : targetOf (bitAt (firstWord (ioTop opc alt.isRel tbl satn) low) 26) alt.word = alt := by
    rw [bitAt_firstWord_top _ _ 2, hrel, targetOf_word]
  simp only [decodeIoOrRegister, halt, field_firstWord_top _ _ 3, hopc, bitAt_firstWord_top _ _ 0, hsatn]
  split_ifs <;> rfl

end

theorem decodes_select (atn : Bool) (src : IdSource) (alt : Target) : Decodes (.select atn src alt) := by
  obtain ⟨-, -, -, htbl, -, -⟩ := ioTop_fields 0#3 alt.isRel src.isTable atn
  exact decodes_io rfl (by rw [decodeIoOrRegister_ioTop, if_pos rfl, idSourceOf_firstWord htbl])

theorem decodes_waitDisconnect (tbl : Option Word24) (alt : Target) : Decodes (.waitDisconnect tbl alt) := by
  obtain ⟨-, -, -, htbl, -, -⟩ := ioTop_fields 1#3 alt.isRel tbl.isSome false
  exact decodes_io rfl (by rw [decodeIoOrRegister_ioTop]; simp [tableOf_firstWord htbl])

theorem decodes_waitReselect (tbl : Option Word24) (alt : Target) : Decodes (.waitReselect tbl alt) := by
  obtain ⟨-, -, -, htbl, -, -⟩ := ioTop_fields 2#3 alt.isRel tbl.isSome false
  exact decodes_io rfl (by rw [decodeIoOrRegister_ioTop]; simp [tableOf_firstWord htbl])

theorem decodes_set {f : IoFlags} {tbl : Option Word24} (h : f.agree tbl = true) (alt : Target) :
    Decodes (.set f tbl alt) := by
  obtain ⟨-, -, -, htbl, -, -⟩ := ioTop_fields 3#3 alt.isRel tbl.isSome false
  exact decodes_io rfl (by rw [decodeIoOrRegister_ioTop]; simp [tableOf_firstWord htbl, ioFlagsOf_firstWord h])

theorem decodes_clear {f : IoFlags} {tbl : Option Word24} (h : f.agree tbl = true) (alt : Target) :
    Decodes (.clear f tbl alt) := by
  obtain ⟨-, -, -, htbl, -, -⟩ := ioTop_fields 4#3 alt.isRel tbl.isSome false
  exact decodes_io rfl (by rw [decodeIoOrRegister_ioTop]; simp [tableOf_firstWord htbl, ioFlagsOf_firstWord h])

/-! ### Format RW (30_encoding R134) -/

section
variable (opc : BitVec 3) (op : AluOp) (u : Bool) (reg imm : Byte)

theorem rwOffset_rwWord : rwOffset (rwWord opc op u reg imm) = reg := by
  rw [rwOffset, rwWord, field_firstWord_low _ _ _ _ (by omega), field_firstWord_low _ _ _ _ (by omega)]
  exact (rwLow_fields u reg imm).2.1

theorem field_imm_rwWord : field (rwWord opc op u reg imm) 8 8 = imm := by
  rw [rwWord, field_firstWord_low _ _ _ _ (by omega)]
  exact (rwLow_fields u reg imm).2.2

theorem bitAt_usfbr_rwWord : bitAt (rwWord opc op u reg imm) 23 = u := by
  rw [rwWord, bitAt_firstWord_low _ _ _ (by omega)]
  exact (rwLow_fields u reg imm).1

/-- What the class's decoder finds in a word of format RW. -/
theorem decodeWords_rwWord (h : 5#3 ≤ opc) (w1 w2 : Word) : decodeWords (rwWord opc op u reg imm) w1 w2 =
    if opc = 5#3 then Instr.ofFs op reg imm else if opc = 6#3 then Instr.ofTs op reg imm
    else Instr.ofRm op reg (if u then .sfbr else .imm imm) := by
  obtain ⟨hcls, hopc, hop, -, -, -⟩ := opcTop_fields 1#2 opc op.code
  have hio : ∀ v : BitVec 3, 5#3 ≤ v → v ≠ 0#3 ∧ v ≠ 1#3 ∧ v ≠ 2#3 ∧ v ≠ 3#3 ∧ v ≠ 4#3 := by decide
  obtain ⟨h0, h1, h2, h3, h4⟩ := hio opc h
  have hfield : field (rwWord opc op u reg imm) 27 3 = opc := (field_firstWord_top _ _ 3 3).trans hopc
  have hcode : AluOp.ofCode (field (rwWord opc op u reg imm) 24 3) = op := by
    rw [rwWord, field_firstWord_top _ _ 0 3, hop, ofCode_code]
  rw [show decodeWords (rwWord opc op u reg imm) w1 w2 = decodeIoOrRegister (rwWord opc op u reg imm) w1 from
    decodeWords_ioOrRegister w1 w2 hcls]
  simp only [decodeIoOrRegister, hfield, hcode, rwOffset_rwWord, field_imm_rwWord, rmSourceOf, bitAt_usfbr_rwWord,
    h0, h1, h2, h3, h4, if_false]

end

/-- An instruction of format RW decodes when the decoder gives it back. -/
theorem decodes_rw {i : Instr} {opc : BitVec 3} {op : AluOp} {u : Bool} {reg imm : Byte}
    (he : encode i = [rwWord opc op u reg imm, 0#32]) (hd : decodeWords (rwWord opc op u reg imm) 0#32 0#32 = i) :
    Decodes i := by
  obtain ⟨hcls, -, -, -, -, h6⟩ := opcTop_fields 1#2 opc op.code
  have hz : rwWord opc op u reg imm ≠ 0#32 := firstWord_ne_zero_of_class (by rw [hcls]; decide)
  exact fun rest => decode_encodeBytes_two _ rest he hz (h6 (by decide)) hd

theorem encode_ofFs (op : AluOp) (reg imm : Byte) :
    encode (.ofFs op reg imm) = [rwWord 5#3 op false reg imm, 0#32] := by cases op <;> rfl

theorem encode_ofTs (op : AluOp) (reg imm : Byte) :
    encode (.ofTs op reg imm) = [rwWord 6#3 op false reg imm, 0#32] := by cases op <;> rfl

theorem encode_ofRm (op : AluOp) (reg : Byte) (src : RmSource) :
    encode (.ofRm op reg src) = [rmWord op reg src, 0#32] := by cases op <;> rfl

theorem decodes_ofFs (op : AluOp) (reg imm : Byte) : Decodes (.ofFs op reg imm) :=
  decodes_rw (encode_ofFs op reg imm) (decodeWords_rwWord 5#3 op false reg imm (by decide) _ _)

theorem decodes_ofTs (op : AluOp) (reg imm : Byte) : Decodes (.ofTs op reg imm) :=
  decodes_rw (encode_ofTs op reg imm) (decodeWords_rwWord 6#3 op false reg imm (by decide) _ _)

theorem decodes_ofRm (op : AluOp) (reg : Byte) (src : RmSource) : Decodes (.ofRm op reg src) := by
  cases src with
  | imm b => exact decodes_rw (encode_ofRm op reg (.imm b)) (decodeWords_rwWord 7#3 op false reg b (by decide) _ _)
  | sfbr => exact decodes_rw (encode_ofRm op reg .sfbr) (decodeWords_rwWord 7#3 op true reg 0#8 (by decide) _ _)

/-! ### Format TC (30_encoding R135) -/

theorem bitAt_tcWord (opc : BitVec 3) (rel fly : Bool) (c : Cond) (k : Nat) (hk : 16 + k < 24) :
    bitAt (tcWord opc rel fly c) (16 + k) = (tcFlags rel c.ct fly c.jt c.cd c.cp).getLsbD k := by
  rw [tcWord_eq, bitAt_firstWord_low _ _ _ hk, getLsbD_threeBytes]

theorem condOf_tcWord (opc : BitVec 3) (rel fly : Bool) (c : Cond) : condOf (tcWord opc rel fly c) = c := by
  obtain ⟨-, -, hph, -, -, -⟩ := opcTop_fields 2#2 opc c.ph
  obtain ⟨-, hct, -, hjt, hcd, hcp⟩ := tcFlags_bits rel c.ct fly c.jt c.cd c.cp
  obtain ⟨hmask, hdata⟩ := extractLsb'_threeBytes (tcFlags rel c.ct fly c.jt c.cd c.cp) c.mask c.data
  have bit := bitAt_tcWord opc rel fly c
  simp only [condOf, bit 5 (by omega), bit 3 (by omega), bit 2 (by omega), bit 1 (by omega), hct, hjt, hcd, hcp]
  rw [tcWord_eq, field_firstWord_top _ _ 0, hph, field_firstWord_low _ _ _ _ (by omega), hmask,
    field_firstWord_low _ _ _ _ (by omega), hdata]

/-- A gated Transfer Control decodes when its class's decoder gives it back. -/
theorem decodes_tc {i : Instr} {opc : BitVec 3} {rel fly : Bool} {c : Cond} {w1 : Word}
    (he : encode i = [tcWord opc rel fly c, w1]) (hc : c.isNop = false) (hopc : opc < 4#3)
    (hd : (if opc.extractLsb' 0 2 = 0#2 then Instr.jump c (targetOf rel w1)
      else if opc.extractLsb' 0 2 = 1#2 then .call c (targetOf rel w1)
      else if opc.extractLsb' 0 2 = 2#2 then .ret c
      else if fly then .intfly c w1 else .int c w1) = i) : Decodes i := by
  obtain ⟨hcls, -, -, hlow, hhigh, h6⟩ := opcTop_fields 2#2 opc c.ph
  obtain ⟨hrel, -, hfly, -, -, -⟩ := tcFlags_bits rel c.ct fly c.jt c.cd c.cp
  have hz : tcWord opc rel fly c ≠ 0#32 := firstWord_ne_zero_of_class (by rw [hcls]; decide)
  have hgated : opc.getLsbD 2 = false := (by decide : ∀ v : BitVec 3, v < 4#3 → v.getLsbD 2 = false) opc hopc
  have h29 : bitAt (tcWord opc rel fly c) 29 = false := by
    rw [tcWord_eq, bitAt_firstWord_top _ _ 5, hhigh, hgated]
  have hfield : field (tcWord opc rel fly c) 27 2 = opc.extractLsb' 0 2 := by
    rw [tcWord_eq, field_firstWord_top _ _ 3, hlow]
  refine fun rest => decode_encodeBytes_two w1 rest he hz (h6 (by decide)) ?_
  have bit := bitAt_tcWord opc rel fly c
  refine (decodeWords_transferControl w1 0#32 hcls).trans ?_
  change decodeTransferControl (tcWord opc rel fly c) w1 = i
  rw [← hd]
  simp only [decodeTransferControl, condOf_tcWord, h29, hc, hfield, bit 7 (by omega), bit 4 (by omega), hrel, hfly,
    Bool.false_eq_true, if_false]

theorem decodes_tcIllegal (opc : BitVec 2) : Decodes (.tcIllegal opc) := by
  have htop : ∀ opc : BitVec 2, (0b101#3 ++ opc ++ 0#3 : Byte).extractLsb' 6 2 = 2#2 ∧
      (0b101#3 ++ opc ++ 0#3 : Byte).getLsbD 5 = true ∧ (0b101#3 ++ opc ++ 0#3 : Byte).extractLsb' 3 2 = opc ∧
      (0b101#3 ++ opc ++ 0#3 : Byte).extractLsb' 5 3 ≠ 6#3 := by decide
  obtain ⟨hcls, h29, hopc, h6⟩ := htop opc
  have hz : firstWord (0b101#3 ++ opc ++ 0#3) 0#24 ≠ 0#32 := firstWord_ne_zero_of_class (by rw [hcls]; decide)
  refine fun rest => decode_encodeBytes_two _ rest rfl hz h6 ?_
  rw [decodeWords_transferControl _ _ hcls, decodeTransferControl, bitAt_firstWord_top _ _ 5, h29, if_pos rfl,
    field_firstWord_top _ _ 3, hopc]

theorem decodes_nop : Decodes .nop := fun rest => decode_two 0x80000000#32 0#32 rest rfl

/-! ### Formats MM and LS (30_encoding R136, R137) -/

theorem decodes_moveMemory (count : Word24) (src dst : Word) : Decodes (.moveMemory count src dst) := by
  have hz : firstWord (0b110#3 ++ 0#5) count ≠ 0#32 := firstWord_ne_zero_of_class (by decide)
  have hlen : instrBytes (firstWord (0b110#3 ++ 0#5) count) = 12 := by
    rw [instrBytes, if_neg hz, field_firstWord_top _ _ 5]
    rfl
  intro rest
  rw [encodeBytes, encode, decode_three _ _ _ _ hlen, decodeWords_memory _ _ (by decide), decodeMemory,
    bitAt_firstWord_top _ _ 5, field_firstWord_all]
  rfl

/-- A Load or Store decodes, as its bit LOAD says. -/
theorem decodes_ls {i : Instr} {ld : Bool} {reg : Byte} {n : BitVec 3} {a : LsAddr}
    (he : encode i = [lsWord ld a.isRel reg n, a.word]) (hd : (if ld then .load reg n a else .store reg n a) = i) :
    Decodes i := by
  obtain ⟨hcls, h29, hrel, hld, h6⟩ := lsTop_fields a.isRel ld
  obtain ⟨hreg, hn⟩ := lsLow_fields reg n
  have hz : lsWord ld a.isRel reg n ≠ 0#32 := firstWord_ne_zero_of_class (by rw [hcls]; decide)
  refine fun rest => decode_encodeBytes_two _ rest he hz h6 ?_
  rw [decodeWords_memory _ _ hcls, decodeMemory, bitAt_firstWord_top _ _ 5, h29, if_pos rfl,
    bitAt_firstWord_top _ _ 0, hld, bitAt_firstWord_top _ _ 4, hrel, lsAddrOf_word,
    field_firstWord_low _ _ _ _ (by omega), hreg, field_firstWord_low _ _ _ _ (by omega), hn, hd]

end Sys2Proof
end

section
/-! SUPPORT. Instructions by their forms: the 24 register ALU instructions are three forms over an operator. -/

namespace Sys2Proof

/-- To show a property of every instruction, show it of the three ALU forms and of each other constructor. -/
theorem Instr.aluCases {P : Instr → Prop} (i : Instr) (fs : ∀ op reg imm, P (.ofFs op reg imm))
    (ts : ∀ op reg imm, P (.ofTs op reg imm)) (rm : ∀ op reg src, P (.ofRm op reg src)) (pad : P .pad)
    (moveInd : ∀ ph count ptr, P (.moveInd ph count ptr)) (moveTbl : ∀ ph off, P (.moveTbl ph off))
    (move : ∀ ph count addr, P (.move ph count addr)) (select : ∀ atn id alt, P (.select atn id alt))
    (waitDisconnect : ∀ tbl alt, P (.waitDisconnect tbl alt)) (waitReselect : ∀ tbl alt, P (.waitReselect tbl alt))
    (set : ∀ f tbl alt, P (.set f tbl alt)) (clear : ∀ f tbl alt, P (.clear f tbl alt))
    (tcIllegal : ∀ opc, P (.tcIllegal opc)) (nop : P .nop) (jump : ∀ c t, P (.jump c t))
    (call : ∀ c t, P (.call c t)) (ret : ∀ c, P (.ret c)) (int : ∀ c v, P (.int c v))
    (intfly : ∀ c v, P (.intfly c v)) (moveMemory : ∀ n src dst, P (.moveMemory n src dst))
    (load : ∀ reg n a, P (.load reg n a)) (store : ∀ reg n a, P (.store reg n a)) : P i := by
  cases i
  case movFs => exact fs .mov _ _
  case shlFs => exact fs .shl _ _
  case orFs => exact fs .or _ _
  case xorFs => exact fs .xor _ _
  case andFs => exact fs .and _ _
  case shrFs => exact fs .shr _ _
  case addFs => exact fs .add _ _
  case adcFs => exact fs .adc _ _
  case movTs => exact ts .mov _ _
  case shlTs => exact ts .shl _ _
  case orTs => exact ts .or _ _
  case xorTs => exact ts .xor _ _
  case andTs => exact ts .and _ _
  case shrTs => exact ts .shr _ _
  case addTs => exact ts .add _ _
  case adcTs => exact ts .adc _ _
  case movRm => exact rm .mov _ _
  case shlRm => exact rm .shl _ _
  case orRm => exact rm .or _ _
  case xorRm => exact rm .xor _ _
  case andRm => exact rm .and _ _
  case shrRm => exact rm .shr _ _
  case addRm => exact rm .add _ _
  case adcRm => exact rm .adc _ _
  all_goals solve_by_elim

end Sys2Proof
end

section
/-! The statement that decoding inverts encoding (30_encoding). -/

namespace Sys2Proof.Claims

theorem isNop_of_not {c : Cond} (h : (!c.isNop) = true) : c.isNop = false := Bool.not_eq_true' _ ▸ h

/-- Settles O1, format by format. -/
theorem decodeInvertsEncode : Obligations.DecodeInvertsEncode := by
  unfold Obligations.DecodeInvertsEncode
  intro i rest hwf
  cases i using Instr.aluCases with
  | pad => exact decodes_pad rest
  | moveInd ph count ptr => exact decodes_moveInd ph count ptr rest
  | moveTbl ph off => exact decodes_moveTbl ph off rest
  | move ph count addr => exact decodes_move ph count addr rest
  | select atn src alt => exact decodes_select atn src alt rest
  | waitDisconnect tbl alt => exact decodes_waitDisconnect tbl alt rest
  | waitReselect tbl alt => exact decodes_waitReselect tbl alt rest
  | set f tbl alt => exact decodes_set hwf alt rest
  | clear f tbl alt => exact decodes_clear hwf alt rest
  | fs op reg imm => exact decodes_ofFs op reg imm rest
  | ts op reg imm => exact decodes_ofTs op reg imm rest
  | rm op reg src => exact decodes_ofRm op reg src rest
  | tcIllegal opc => exact decodes_tcIllegal opc rest
  | nop => exact decodes_nop rest
  | jump c t =>
    exact decodes_tc (opc := 0#3) (fly := false) rfl (isNop_of_not hwf) (by decide)
      (congrArg (Instr.jump c) (targetOf_word t)) rest
  | call c t =>
    exact decodes_tc (opc := 1#3) (fly := false) rfl (isNop_of_not hwf) (by decide)
      (congrArg (Instr.call c) (targetOf_word t)) rest
  | ret c =>
    exact decodes_tc (opc := 2#3) (rel := false) (fly := false) rfl (isNop_of_not hwf) (by decide) rfl rest
  | int c v =>
    exact decodes_tc (opc := 3#3) (rel := false) (fly := false) rfl (isNop_of_not hwf) (by decide) rfl rest
  | intfly c v =>
    exact decodes_tc (opc := 3#3) (rel := false) (fly := true) rfl (isNop_of_not hwf) (by decide) rfl rest
  | moveMemory count src dst => exact decodes_moveMemory count src dst rest
  | load reg n a => exact decodes_ls (ld := true) rfl rfl rest
  | store reg n a => exact decodes_ls (ld := false) rfl rfl rest

end Sys2Proof.Claims
end

section
/-! SUPPORT. What the decoder and the opcode table look at in a first word: its top byte, whether it is zero, the tests
and JT, and FLY (30_encoding R139). -/

namespace Sys2Proof

/-! ### Words by their top byte and their low 24 bits -/

theorem firstWord_fields (w : Word) : firstWord (field w 24 8) (field w 0 24) = w := by
  apply BitVec.eq_of_getLsbD_eq
  intro i hi
  rw [getLsbD_firstWord]
  unfold field
  grind

/-- A field of the top byte. -/
theorem extractLsb'_field_top (w : Word) (k len : Nat) (h : k + len ≤ 8) :
    (field w 24 8).extractLsb' k len = field w (24 + k) len := by
  apply BitVec.eq_of_getLsbD_eq
  intro i hi
  simp [field, hi, show k + i < 8 by omega, Nat.add_assoc]

/-- A bit of the top byte. -/
theorem getLsbD_field_top (w : Word) (k : Nat) (h : k < 8) : (field w 24 8).getLsbD k = bitAt w (24 + k) := by
  simp [field, bitAt, h]

/-- The mask of the NOP pattern: CT, JT, CD and CP. -/
theorem isNop_condOf (w : Word) : (condOf w).isNop = (field w 0 24 &&& 0x2E0000#24 == 0#24) := by
  have hmask : ∀ i : Fin 24, (0x2E0000#24).getLsbD i = true ↔
      i.val = 21 ∨ i.val = 19 ∨ i.val = 18 ∨ i.val = 17 := by decide
  have hbit (i : Nat) (hi : i < 24) : bitAt w i = (field w 0 24).getLsbD i := by
    simp [field, bitAt, hi]
  rw [Bool.eq_iff_iff, beq_iff_eq]
  simp only [Cond.isNop, condOf, Bool.and_eq_true, Bool.not_eq_true', hbit 21 (by omega), hbit 19 (by omega),
    hbit 18 (by omega), hbit 17 (by omega)]
  constructor
  · rintro ⟨⟨⟨h21, h19⟩, h18⟩, h17⟩
    apply BitVec.eq_of_getLsbD_eq
    intro i hi
    rw [BitVec.getLsbD_and, BitVec.getLsbD_zero]
    by_cases hm : (0x2E0000#24).getLsbD i = true
    · rcases (hmask ⟨i, hi⟩).1 hm with rfl | rfl | rfl | rfl
      · rw [h21, Bool.false_and]
      · rw [h19, Bool.false_and]
      · rw [h18, Bool.false_and]
      · rw [h17, Bool.false_and]
    · rw [Bool.eq_false_of_not_eq_true hm, Bool.and_false]
  · intro h
    have clear (i : Nat) (hi : (0x2E0000#24).getLsbD i = true) : (field w 0 24).getLsbD i = false := by
      have hb := congrArg (fun v : Word24 => v.getLsbD i) h
      simpa only [BitVec.getLsbD_and, hi, Bool.and_true, BitVec.getLsbD_zero] using hb
    exact ⟨⟨⟨clear 21 rfl, clear 19 rfl⟩, clear 18 rfl⟩, clear 17 rfl⟩

/-! ### Words that the decoder and the table tell apart -/

/-- Two words agree on all that decides a row of the table. -/
structure SameKey (v w : Word) : Prop where
  zero : v = 0#32 ↔ w = 0#32
  top : field v 24 8 = field w 24 8
  nop : (condOf v).isNop = (condOf w).isNop
  fly : bitAt v 20 = bitAt w 20

section
variable {v w : Word} (h : SameKey v w)
include h

theorem SameKey.field_eq (k len : Nat) (hk : k + len ≤ 8) : field v (24 + k) len = field w (24 + k) len := by
  rw [← extractLsb'_field_top v k len hk, h.top, extractLsb'_field_top w k len hk]

theorem SameKey.bit_eq (k : Nat) (hk : k < 8) : bitAt v (24 + k) = bitAt w (24 + k) := by
  rw [← getLsbD_field_top v k hk, h.top, getLsbD_field_top w k hk]

/-- The length is told from the key (30_encoding R130). -/
theorem SameKey.instrBytes_eq : instrBytes v = instrBytes w := by
  have hlen : field v 29 3 = field w 29 3 := h.field_eq 5 3 (by omega)
  simp only [instrBytes, h.zero, hlen]

/-- The row's mnemonic is told from the key. -/
theorem SameKey.mnemonic_eq (v1 v2 w1 w2 : Word) :
    (decodeWords v v1 v2).mnemonic = (decodeWords w w1 w2).mnemonic := by
  have hcls : field v 30 2 = field w 30 2 := h.field_eq 6 2 (by omega)
  have hopc : field v 27 3 = field w 27 3 := h.field_eq 3 3 (by omega)
  have hopc' : field v 27 2 = field w 27 2 := h.field_eq 3 2 (by omega)
  have hop : field v 24 3 = field w 24 3 := h.field_eq 0 3 (by omega)
  have h29 : bitAt v 29 = bitAt w 29 := h.bit_eq 5 (by omega)
  have h28 : bitAt v 28 = bitAt w 28 := h.bit_eq 4 (by omega)
  have h24 : bitAt v 24 = bitAt w 24 := h.bit_eq 0 (by omega)
  have block : (decodeBlockMove v v1).mnemonic = (decodeBlockMove w w1).mnemonic := by
    unfold decodeBlockMove
    rw [h29, h28]
    split_ifs <;> rfl
  have io : (decodeIoOrRegister v v1).mnemonic = (decodeIoOrRegister w w1).mnemonic := by
    unfold decodeIoOrRegister
    rw [hopc, hop]
    dsimp only
    split_ifs
    case pos | pos | pos | pos | pos => rfl
    all_goals cases AluOp.ofCode (field w 24 3) <;> rfl
  have tc : (decodeTransferControl v v1).mnemonic = (decodeTransferControl w w1).mnemonic := by
    unfold decodeTransferControl
    rw [h29, hopc', h.fly]
    dsimp only
    rw [h.nop]
    split_ifs <;> rfl
  have mem : (decodeMemory v v1 v2).mnemonic = (decodeMemory w w1 w2).mnemonic := by
    unfold decodeMemory
    rw [h29, h24]
    split_ifs <;> rfl
  simp only [decodeWords, h.zero, hcls]
  split_ifs
  · rfl
  · exact block
  · exact io
  · exact tc
  · exact mem

end

/-! ### Rows -/

/-- A row of the table looks at the low bits for the zero word, for the NOP pattern, or for FLY. -/
theorem lowMask_cases : ∀ r ∈ opcodeRows, (r.mask = 0xFFFFFFFF#32 ∧ r.fixed = 0#32) ∨ field r.mask 0 24 = 0#24 ∨
    (field r.mask 0 24 = 0x2E0000#24 ∧ field r.fixed 0 24 = 0#24) ∨ field r.mask 0 24 = 0x100000#24 := by decide

/-- A row fits a word in its top byte and its low bits. -/
theorem fits_eq (r : OpcodeRow) (w : Word) : r.fits w =
    ((field w 24 8 &&& field r.mask 24 8 == field r.fixed 24 8) &&
      (field w 0 24 &&& field r.mask 0 24 == field r.fixed 0 24)) := by
  have parts (x y : Word) : x = y ↔ field x 24 8 = field y 24 8 ∧ field x 0 24 = field y 0 24 :=
    ⟨fun e => e ▸ ⟨rfl, rfl⟩, fun ⟨h1, h2⟩ => by rw [← firstWord_fields x, h1, h2, firstWord_fields]⟩
  rw [OpcodeRow.fits, Bool.eq_iff_iff, Bool.and_eq_true, beq_iff_eq, beq_iff_eq, beq_iff_eq, parts]
  simp only [field, BitVec.extractLsb'_and]

/-- Words with one key fit the same rows. -/
theorem SameKey.fits_eq {v w : Word} (h : SameKey v w) (hw : w ≠ 0#32) {r : OpcodeRow} (hr : r ∈ opcodeRows) :
    r.fits v = r.fits w := by
  have hv : v ≠ 0#32 := mt h.zero.1 hw
  have hnop := h.nop
  rw [isNop_condOf, isNop_condOf] at hnop
  have hfly : field v 0 24 &&& 0x100000#24 = field w 0 24 &&& 0x100000#24 := by
    have bit (x : Word) : (field x 0 24).getLsbD 20 = bitAt x 20 := by simp [field, bitAt]
    rw [show (0x100000#24) = BitVec.twoPow 24 20 from rfl, BitVec.and_twoPow, BitVec.and_twoPow, bit, bit, h.fly]
  rcases lowMask_cases r hr with ⟨hm, hf⟩ | hm | ⟨hm, hf⟩ | hm
  · have all (x : Word) : x &&& 0xFFFFFFFF#32 = x := BitVec.and_allOnes
    simp only [OpcodeRow.fits, hm, hf, all, beq_eq_false_iff_ne.2 hv, beq_eq_false_iff_ne.2 hw]
  · rw [Sys2Proof.fits_eq, Sys2Proof.fits_eq, h.top, hm, BitVec.and_zero, BitVec.and_zero]
  · rw [Sys2Proof.fits_eq, Sys2Proof.fits_eq, h.top, hm, hf, hnop]
  · rw [Sys2Proof.fits_eq, Sys2Proof.fits_eq, h.top, hm, hfly]

/-- Words with one key have one row. -/
theorem SameKey.rowOf_eq {v w : Word} (h : SameKey v w) (hw : w ≠ 0#32) : rowOf v = rowOf w := by
  have find (rows : List OpcodeRow) (hrows : ∀ r ∈ rows, r.fits v = r.fits w) :
      rows.find? (fun r => r.fits v) = rows.find? (fun r => r.fits w) := by
    induction rows with
    | nil => rfl
    | cons r rest ih =>
      rw [List.find?_cons, List.find?_cons, hrows r List.mem_cons_self,
        ih fun r' hr' => hrows r' (List.mem_cons_of_mem _ hr')]
  exact find opcodeRows fun r hr => h.fits_eq hw hr

/-! ### One word for each key -/

/-- A word with a given top byte, FLY and some test, which is not zero. -/
def keyWord (top : Byte) (fly tests : Bool) : Word :=
  firstWord top (0#3 ++ BitVec.ofBool fly ++ 0#2 ++ BitVec.ofBool tests ++ 1#17)

theorem keyLow_bits : ∀ fly tests : Bool,
    let low : Word24 := 0#3 ++ BitVec.ofBool fly ++ 0#2 ++ BitVec.ofBool tests ++ 1#17
    low ≠ 0#24 ∧ low.getLsbD 20 = fly ∧ (low &&& 0x2E0000#24 == 0#24) = !tests := by decide

theorem sameKey_keyWord {w : Word} (hw : w ≠ 0#32) :
    SameKey (keyWord (field w 24 8) (bitAt w 20) (!(condOf w).isNop)) w := by
  obtain ⟨hne, hfly, htests⟩ := keyLow_bits (bitAt w 20) (!(condOf w).isNop)
  refine ⟨⟨fun h => absurd ((firstWord_eq_zero _ _).1 h).2 hne, fun h => absurd h hw⟩,
    (field_firstWord_top _ _ 0 8).trans BitVec.extractLsb'_eq_self, ?_, ?_⟩
  · rw [isNop_condOf, keyWord, field_firstWord_all, htests, Bool.not_not]
  · rw [keyWord, bitAt_firstWord_low _ _ _ (by omega), hfly]

/-- The decoder and the table agree on the words of all keys. -/
theorem row_keyWord : ∀ (top : Byte) (fly tests : Bool), ∃ r ∈ rowOf (keyWord top fly tests),
    r.mnemonic = (decodeWords (keyWord top fly tests) 0#32 0#32).mnemonic ∧
    r.bytes = instrBytes (keyWord top fly tests) := by decide

end Sys2Proof
end

section
/-! SUPPORT. The decoder's operands: flags agree with the table offset they share bits with, and ignored bits are no
operands (30_encoding R132 to R137, R141). -/

namespace Sys2Proof

/-! ### Well-formedness -/

/-- The flags and the table offset are read from the same word (30_encoding R133). -/
theorem agree_ioFlagsOf_tableOf (w0 : Word) : (ioFlagsOf w0).agree (tableOf w0) = true := by
  have hbit (i : Nat) (hi : i < 24) : (field w0 0 24).getLsbD i = bitAt w0 i := by
    simp [field, bitAt, hi]
  unfold tableOf
  split
  · simp only [IoFlags.agree, ioFlagsOf, hbit 10 (by omega), hbit 9 (by omega), hbit 6 (by omega),
      hbit 3 (by omega), beq_self_eq_true, Bool.and_self]
  · rfl

theorem wf_ofFs (op : AluOp) (reg imm : Byte) : (Instr.ofFs op reg imm).wf = true := by cases op <;> rfl

theorem wf_ofTs (op : AluOp) (reg imm : Byte) : (Instr.ofTs op reg imm).wf = true := by cases op <;> rfl

theorem wf_ofRm (op : AluOp) (reg : Byte) (src : RmSource) : (Instr.ofRm op reg src).wf = true := by
  cases op <;> rfl

theorem wf_decodeBlockMove (w0 w1 : Word) : (decodeBlockMove w0 w1).wf = true := by
  unfold decodeBlockMove
  split_ifs <;> rfl

theorem wf_decodeIoOrRegister (w0 w1 : Word) : (decodeIoOrRegister w0 w1).wf = true := by
  unfold decodeIoOrRegister
  dsimp only
  split_ifs
  · rfl
  · rfl
  · rfl
  · exact agree_ioFlagsOf_tableOf w0
  · exact agree_ioFlagsOf_tableOf w0
  · exact wf_ofFs _ _ _
  · exact wf_ofTs _ _ _
  · exact wf_ofRm _ _ _

/-- The NOP pattern is looked at before every gated instruction (30_encoding R139). -/
theorem wf_decodeTransferControl (w0 w1 : Word) : (decodeTransferControl w0 w1).wf = true := by
  unfold decodeTransferControl
  dsimp only
  split_ifs with hill hnop
  · rfl
  · rfl
  all_goals simpa [Instr.wf] using hnop

theorem wf_decodeMemory (w0 w1 w2 : Word) : (decodeMemory w0 w1 w2).wf = true := by
  unfold decodeMemory
  split_ifs <;> rfl

/-! ### Ignored bits -/

section
variable {v w m : Word} (h : v &&& m = w &&& m)
include h

theorem eq_of_fullMask (hm : m = 0xFFFFFFFF#32) : v = w := by
  have all (x : Word) : x &&& 0xFFFFFFFF#32 = x := BitVec.and_allOnes
  rw [hm, all, all] at h
  exact h

theorem targetOf_eq_of_mask {rel : Bool} (hm : m = Claims.targetMask (targetOf rel w)) :
    targetOf rel v = targetOf rel w := by
  subst hm
  cases rel
  · exact congrArg Target.abs (eq_of_fullMask h rfl)
  · exact congrArg Target.rel (field_eq_of_mask h 0 24 rfl)

theorem lsAddrOf_eq_of_mask {rel : Bool} (hm : m = Claims.lsMask (lsAddrOf rel w)) :
    lsAddrOf rel v = lsAddrOf rel w := by
  subst hm
  cases rel
  · exact congrArg LsAddr.abs (eq_of_fullMask h rfl)
  · exact congrArg LsAddr.dsaRel (field_eq_of_mask h 0 24 rfl)

theorem tableOf_eq_of_mask {m' : Word} (hm : m = Claims.orTable (tableOf w) m') (h25 : bitAt m' 25 = true) :
    tableOf v = tableOf w := by
  subst hm
  unfold tableOf at h ⊢
  cases hw : bitAt w 25 <;> simp only [hw, if_true, if_false, Bool.false_eq_true] at h ⊢
  · rw [if_neg]
    rw [bitAt_eq_of_mask h 25 h25, hw]
    exact Bool.false_ne_true
  · change v &&& 0xFEFFFFFF#32 = w &&& 0xFEFFFFFF#32 at h
    rw [if_pos ((bitAt_eq_of_mask h 25 rfl).trans hw), field_eq_of_mask h 0 24 rfl]

/-- The condition fields under a mask that holds all of them. -/
theorem condOf_eq_of_mask (hm : condOf m = ⟨true, true, true, true, 7#3, 0xFF#8, 0xFF#8⟩) : condOf v = condOf w := by
  simp only [condOf, Cond.mk.injEq] at hm ⊢
  obtain ⟨hct, hjt, hcd, hcp, hph, hmask, hdata⟩ := hm
  exact ⟨bitAt_eq_of_mask h _ hct, bitAt_eq_of_mask h _ hjt, bitAt_eq_of_mask h _ hcd, bitAt_eq_of_mask h _ hcp,
    field_eq_of_mask h _ _ hph, field_eq_of_mask h _ _ hmask, field_eq_of_mask h _ _ hdata⟩

end

theorem firstMask_ofFs (op : AluOp) (reg imm : Byte) : Claims.firstMask (.ofFs op reg imm) = 0xFF7FFF80#32 := by
  cases op <;> rfl

theorem firstMask_ofTs (op : AluOp) (reg imm : Byte) : Claims.firstMask (.ofTs op reg imm) = 0xFF7FFF80#32 := by
  cases op <;> rfl

theorem firstMask_ofRm_imm (op : AluOp) (reg imm : Byte) :
    Claims.firstMask (.ofRm op reg (.imm imm)) = 0xFFFFFF80#32 := by
  cases op <;> rfl

theorem firstMask_ofRm_sfbr (op : AluOp) (reg : Byte) : Claims.firstMask (.ofRm op reg .sfbr) = 0xFFFF0080#32 := by
  cases op <;> rfl

theorem firstMask_select_direct (atn : Bool) (id : TargetId) (alt : Target) :
    Claims.firstMask (.select atn (.direct id) alt) = 0xFF0F0000#32 := rfl

theorem firstMask_select_table (atn : Bool) (off : Word24) (alt : Target) :
    Claims.firstMask (.select atn (.table off) alt) = 0xFFFFFFFF#32 := rfl

/-- WAIT DISCONNECT, WAIT RESELECT, SET and CLEAR hold the class, OPC, REL and TBL at least. -/
theorem orTable_cases (tbl : Option Word24) (m : Word) :
    Claims.orTable tbl m = 0xFEFFFFFF#32 ∨ Claims.orTable tbl m = m := by
  cases tbl
  · exact .inr rfl
  · exact .inl rfl

/-- The class is never ignored (30_encoding R131). -/
theorem field_firstMask_class (i : Instr) : field (Claims.firstMask i) 30 2 = 3#2 := by
  cases i using Instr.aluCases with
  | fs op reg imm => rw [firstMask_ofFs]; rfl
  | ts op reg imm => rw [firstMask_ofTs]; rfl
  | rm op reg src =>
    cases src
    · rw [firstMask_ofRm_imm]; rfl
    · rw [firstMask_ofRm_sfbr]; rfl
  | select atn id alt =>
    cases id
    · rw [firstMask_select_direct]; rfl
    · rw [firstMask_select_table]; rfl
  | waitDisconnect tbl alt | waitReselect tbl alt =>
    change field (Claims.orTable tbl 0xFE000000#32) 30 2 = 3#2
    rcases orTable_cases tbl 0xFE000000#32 with e | e <;> rw [e] <;> rfl
  | set f tbl alt | clear f tbl alt =>
    change field (Claims.orTable tbl 0xFE000648#32) 30 2 = 3#2
    rcases orTable_cases tbl 0xFE000648#32 with e | e <;> rw [e] <;> rfl
  | _ => simp [Claims.firstMask, field]

theorem rwOffset_eq_of_mask {v w m : Word} (h : v &&& m = w &&& m) (h7 : field m 7 1 = BitVec.allOnes 1)
    (h16 : field m 16 7 = BitVec.allOnes 7) : rwOffset v = rwOffset w := by
  rw [rwOffset, rwOffset, field_eq_of_mask h 7 1 h7, field_eq_of_mask h 16 7 h16]

/-- SELECT with a direct id holds its id; with a table offset it ignores nothing. -/
theorem select_eq_of_mask {v w : Word} {atn : Bool} {alt : Target}
    (h : v &&& Claims.firstMask (.select atn (idSourceOf w) alt) =
      w &&& Claims.firstMask (.select atn (idSourceOf w) alt)) :
    field v 27 3 = field w 27 3 ∧ bitAt v 26 = bitAt w 26 ∧ bitAt v 24 = bitAt w 24 ∧ idSourceOf v = idSourceOf w := by
  cases h25 : bitAt w 25 with
  | false =>
    have hid : idSourceOf w = .direct (field w 16 4) := by rw [idSourceOf, h25, if_neg Bool.false_ne_true]
    rw [hid, firstMask_select_direct] at h
    rw [hid, idSourceOf, bitAt_eq_of_mask h 25 rfl, h25, if_neg Bool.false_ne_true, field_eq_of_mask h 16 4 rfl]
    exact ⟨field_eq_of_mask h 27 3 rfl, bitAt_eq_of_mask h 26 rfl, bitAt_eq_of_mask h 24 rfl, rfl⟩
  | true =>
    have hid : idSourceOf w = .table (field w 0 24) := by rw [idSourceOf, h25, if_pos rfl]
    rw [hid, firstMask_select_table] at h
    rw [eq_of_fullMask h rfl]
    exact ⟨rfl, rfl, rfl, rfl⟩

/-- WAIT DISCONNECT, WAIT RESELECT, SET and CLEAR hold OPC, REL and TBL, and with TBL their table offset. -/
theorem io_eq_of_mask {v w m : Word} (h : v &&& Claims.orTable (tableOf w) m = w &&& Claims.orTable (tableOf w) m)
    (hm : m = 0xFE000000#32 ∨ m = 0xFE000648#32) :
    field v 27 3 = field w 27 3 ∧ bitAt v 26 = bitAt w 26 ∧ tableOf v = tableOf w := by
  have htbl : tableOf v = tableOf w := tableOf_eq_of_mask h rfl (by rcases hm with rfl | rfl <;> rfl)
  rcases orTable_cases (tableOf w) m with e | e <;> rw [e] at h
  · exact ⟨field_eq_of_mask h 27 3 rfl, bitAt_eq_of_mask h 26 rfl, htbl⟩
  · rcases hm with rfl | rfl <;> exact ⟨field_eq_of_mask h 27 3 rfl, bitAt_eq_of_mask h 26 rfl, htbl⟩

/-- SET and CLEAR hold their flags, in the table offset or without one. -/
theorem ioFlagsOf_eq_of_mask {v w : Word}
    (h : v &&& Claims.orTable (tableOf w) 0xFE000648#32 = w &&& Claims.orTable (tableOf w) 0xFE000648#32) :
    ioFlagsOf v = ioFlagsOf w := by
  rcases orTable_cases (tableOf w) 0xFE000648#32 with e | e <;> rw [e] at h <;>
    rw [ioFlagsOf, ioFlagsOf, bitAt_eq_of_mask h 10 rfl, bitAt_eq_of_mask h 9 rfl, bitAt_eq_of_mask h 6 rfl,
      bitAt_eq_of_mask h 3 rfl]

/-- The form RM holds its operands: with USFBR not the immediate. -/
theorem rm_eq_of_mask {v w : Word} {op : AluOp} {reg : Byte}
    (h : v &&& Claims.firstMask (.ofRm op reg (rmSourceOf w)) = w &&& Claims.firstMask (.ofRm op reg (rmSourceOf w))) :
    field v 27 3 = field w 27 3 ∧ field v 24 3 = field w 24 3 ∧ rwOffset v = rwOffset w ∧
      rmSourceOf v = rmSourceOf w := by
  cases h23 : bitAt w 23 with
  | false =>
    have hsrc : rmSourceOf w = .imm (field w 8 8) := by rw [rmSourceOf, h23, if_neg Bool.false_ne_true]
    rw [hsrc, firstMask_ofRm_imm] at h
    rw [hsrc, rmSourceOf, bitAt_eq_of_mask h 23 rfl, h23, if_neg Bool.false_ne_true, field_eq_of_mask h 8 8 rfl]
    exact ⟨field_eq_of_mask h 27 3 rfl, field_eq_of_mask h 24 3 rfl, rwOffset_eq_of_mask h rfl rfl, rfl⟩
  | true =>
    have hsrc : rmSourceOf w = .sfbr := by rw [rmSourceOf, h23, if_pos rfl]
    rw [hsrc, firstMask_ofRm_sfbr] at h
    rw [hsrc, rmSourceOf, bitAt_eq_of_mask h 23 rfl, h23, if_pos rfl]
    exact ⟨field_eq_of_mask h 27 3 rfl, field_eq_of_mask h 24 3 rfl, rwOffset_eq_of_mask h rfl rfl, rfl⟩

section
open Claims
variable {v0 v1 v2 w0 w1 w2 : Word} {i : Instr}

theorem decodeBlockMove_eq_of_mask (hi : decodeBlockMove w0 w1 = i) (h0 : v0 &&& firstMask i = w0 &&& firstMask i)
    (h1 : v1 &&& secondMask i = w1 &&& secondMask i) : decodeBlockMove v0 v1 = i := by
  unfold decodeBlockMove at hi ⊢
  split_ifs at hi with h29 h28 <;> subst hi
  · replace h0 : v0 &&& 0xE7FFFFFF#32 = w0 &&& 0xE7FFFFFF#32 := h0
    rw [if_pos ((bitAt_eq_of_mask h0 29 rfl).trans h29), field_eq_of_mask h0 24 3 rfl, field_eq_of_mask h0 0 24 rfl,
      eq_of_fullMask h1 rfl]
  · replace h0 : v0 &&& 0xF7000000#32 = w0 &&& 0xF7000000#32 := h0
    replace h1 : v1 &&& 0x00FFFFFF#32 = w1 &&& 0x00FFFFFF#32 := h1
    rw [bitAt_eq_of_mask h0 29 rfl, if_neg h29, bitAt_eq_of_mask h0 28 rfl, if_pos h28, field_eq_of_mask h0 24 3 rfl,
      field_eq_of_mask h1 0 24 rfl]
  · replace h0 : v0 &&& 0xF7FFFFFF#32 = w0 &&& 0xF7FFFFFF#32 := h0
    rw [bitAt_eq_of_mask h0 29 rfl, if_neg h29, bitAt_eq_of_mask h0 28 rfl, if_neg h28, field_eq_of_mask h0 24 3 rfl,
      field_eq_of_mask h0 0 24 rfl, eq_of_fullMask h1 rfl]

theorem decodeIoOrRegister_eq_of_mask (hi : decodeIoOrRegister w0 w1 = i)
    (h0 : v0 &&& firstMask i = w0 &&& firstMask i) (h1 : v1 &&& secondMask i = w1 &&& secondMask i) :
    decodeIoOrRegister v0 v1 = i := by
  unfold decodeIoOrRegister at hi ⊢
  dsimp only at hi ⊢
  split_ifs at hi with n0 n1 n2 n3 n4 n5 n6 <;> subst hi
  · obtain ⟨hopc, hrel, hatn, hid⟩ := select_eq_of_mask h0
    rw [hopc, if_pos n0, hrel, hatn, hid, targetOf_eq_of_mask h1 rfl]
  · obtain ⟨hopc, hrel, htbl⟩ := io_eq_of_mask (m := 0xFE000000#32) h0 (.inl rfl)
    rw [hopc, if_neg n0, if_pos n1, hrel, htbl, targetOf_eq_of_mask h1 rfl]
  · obtain ⟨hopc, hrel, htbl⟩ := io_eq_of_mask (m := 0xFE000000#32) h0 (.inl rfl)
    rw [hopc, if_neg n0, if_neg n1, if_pos n2, hrel, htbl, targetOf_eq_of_mask h1 rfl]
  · obtain ⟨hopc, hrel, htbl⟩ := io_eq_of_mask (m := 0xFE000648#32) h0 (.inr rfl)
    rw [hopc, if_neg n0, if_neg n1, if_neg n2, if_pos n3, hrel, htbl, ioFlagsOf_eq_of_mask h0,
      targetOf_eq_of_mask h1 rfl]
  · obtain ⟨hopc, hrel, htbl⟩ := io_eq_of_mask (m := 0xFE000648#32) h0 (.inr rfl)
    rw [hopc, if_neg n0, if_neg n1, if_neg n2, if_neg n3, if_pos n4, hrel, htbl, ioFlagsOf_eq_of_mask h0,
      targetOf_eq_of_mask h1 rfl]
  · rw [firstMask_ofFs] at h0
    rw [field_eq_of_mask h0 27 3 rfl, if_neg n0, if_neg n1, if_neg n2, if_neg n3, if_neg n4, if_pos n5,
      field_eq_of_mask h0 24 3 rfl, rwOffset_eq_of_mask h0 rfl rfl, field_eq_of_mask h0 8 8 rfl]
  · rw [firstMask_ofTs] at h0
    rw [field_eq_of_mask h0 27 3 rfl, if_neg n0, if_neg n1, if_neg n2, if_neg n3, if_neg n4, if_neg n5, if_pos n6,
      field_eq_of_mask h0 24 3 rfl, rwOffset_eq_of_mask h0 rfl rfl, field_eq_of_mask h0 8 8 rfl]
  · obtain ⟨hopc, hop, hreg, hsrc⟩ := rm_eq_of_mask h0
    rw [hopc, if_neg n0, if_neg n1, if_neg n2, if_neg n3, if_neg n4, if_neg n5, if_neg n6, hop, hreg, hsrc]

theorem decodeTransferControl_eq_of_mask (hi : decodeTransferControl w0 w1 = i)
    (h0 : v0 &&& firstMask i = w0 &&& firstMask i) (h1 : v1 &&& secondMask i = w1 &&& secondMask i) :
    decodeTransferControl v0 v1 = i := by
  unfold decodeTransferControl at hi ⊢
  dsimp only at hi ⊢
  split_ifs at hi with h29 hnop n0 n1 n2 h20 <;> subst hi
  · replace h0 : v0 &&& 0xF8000000#32 = w0 &&& 0xF8000000#32 := h0
    rw [if_pos ((bitAt_eq_of_mask h0 29 rfl).trans h29), field_eq_of_mask h0 27 2 rfl]
  · replace h0 : v0 &&& 0xE02E0000#32 = w0 &&& 0xE02E0000#32 := h0
    have hnop' : (condOf v0).isNop = true := by
      rw [← hnop]
      simp only [Cond.isNop, condOf, bitAt_eq_of_mask h0 21 rfl, bitAt_eq_of_mask h0 19 rfl,
        bitAt_eq_of_mask h0 18 rfl, bitAt_eq_of_mask h0 17 rfl]
    rw [bitAt_eq_of_mask h0 29 rfl, if_neg h29, if_pos hnop']
  · replace h0 : v0 &&& 0xFFAEFFFF#32 = w0 &&& 0xFFAEFFFF#32 := h0
    rw [bitAt_eq_of_mask h0 29 rfl, if_neg h29, condOf_eq_of_mask h0 rfl, if_neg hnop, field_eq_of_mask h0 27 2 rfl,
      if_pos n0, bitAt_eq_of_mask h0 23 rfl, targetOf_eq_of_mask h1 rfl]
  · replace h0 : v0 &&& 0xFFAEFFFF#32 = w0 &&& 0xFFAEFFFF#32 := h0
    rw [bitAt_eq_of_mask h0 29 rfl, if_neg h29, condOf_eq_of_mask h0 rfl, if_neg hnop, field_eq_of_mask h0 27 2 rfl,
      if_neg n0, if_pos n1, bitAt_eq_of_mask h0 23 rfl, targetOf_eq_of_mask h1 rfl]
  · replace h0 : v0 &&& 0xFF2EFFFF#32 = w0 &&& 0xFF2EFFFF#32 := h0
    rw [bitAt_eq_of_mask h0 29 rfl, if_neg h29, condOf_eq_of_mask h0 rfl, if_neg hnop, field_eq_of_mask h0 27 2 rfl,
      if_neg n0, if_neg n1, if_pos n2]
  all_goals
    replace h0 : v0 &&& 0xFF3EFFFF#32 = w0 &&& 0xFF3EFFFF#32 := h0
    rw [bitAt_eq_of_mask h0 29 rfl, if_neg h29, condOf_eq_of_mask h0 rfl, if_neg hnop, field_eq_of_mask h0 27 2 rfl,
      if_neg n0, if_neg n1, if_neg n2, bitAt_eq_of_mask h0 20 rfl, eq_of_fullMask h1 rfl]
  · exact if_pos h20
  · exact if_neg h20

theorem decodeMemory_eq_of_mask (hi : decodeMemory w0 w1 w2 = i) (h0 : v0 &&& firstMask i = w0 &&& firstMask i)
    (h1 : v1 &&& secondMask i = w1 &&& secondMask i) (h2 : v2 &&& thirdMask i = w2 &&& thirdMask i) :
    decodeMemory v0 v1 v2 = i := by
  unfold decodeMemory at hi ⊢
  split_ifs at hi with h29 h24 <;> subst hi
  · replace h0 : v0 &&& 0xF1FF0007#32 = w0 &&& 0xF1FF0007#32 := h0
    rw [if_pos ((bitAt_eq_of_mask h0 29 rfl).trans h29), if_pos ((bitAt_eq_of_mask h0 24 rfl).trans h24),
      field_eq_of_mask h0 16 8 rfl, field_eq_of_mask h0 0 3 rfl, bitAt_eq_of_mask h0 28 rfl,
      lsAddrOf_eq_of_mask h1 rfl]
  · replace h0 : v0 &&& 0xF1FF0007#32 = w0 &&& 0xF1FF0007#32 := h0
    rw [if_pos ((bitAt_eq_of_mask h0 29 rfl).trans h29), bitAt_eq_of_mask h0 24 rfl, if_neg h24,
      field_eq_of_mask h0 16 8 rfl, field_eq_of_mask h0 0 3 rfl, bitAt_eq_of_mask h0 28 rfl,
      lsAddrOf_eq_of_mask h1 rfl]
  · replace h0 : v0 &&& 0xE0FFFFFF#32 = w0 &&& 0xE0FFFFFF#32 := h0
    rw [bitAt_eq_of_mask h0 29 rfl, if_neg h29, field_eq_of_mask h0 0 24 rfl, eq_of_fullMask h1 rfl,
      eq_of_fullMask h2 rfl]

end

end Sys2Proof
end

section
/-! The statements on the decoder (30_encoding). -/

namespace Sys2Proof.Claims

open Sys2Proof.Machine

/-- Settles O2: a word has the row and the mnemonic of the word of its key, and the zero word is PAD. -/
theorem decoderFollowsOpcodeTable : Obligations.DecoderFollowsOpcodeTable := by
  unfold Obligations.DecoderFollowsOpcodeTable
  intro w0 w1 w2
  by_cases hz : w0 = 0#32
  · subst hz
    exact ⟨_, rfl, rfl, rfl⟩
  · have hkey := sameKey_keyWord hz
    obtain ⟨r, hr, hmnemonic, hbytes⟩ := row_keyWord (field w0 24 8) (bitAt w0 20) (!(condOf w0).isNop)
    exact ⟨r, (hkey.rowOf_eq hz).symm.trans hr, hmnemonic.trans (hkey.mnemonic_eq 0#32 0#32 w1 w2),
      hbytes.trans hkey.instrBytes_eq⟩

/-- Settles O3, class by class. -/
theorem decodedInstructionsAreWellFormed : Obligations.DecodedInstructionsAreWellFormed := by
  unfold Obligations.DecodedInstructionsAreWellFormed
  intro w0 w1 w2
  unfold decodeWords
  split_ifs
  · rfl
  · exact wf_decodeBlockMove w0 w1
  · exact wf_decodeIoOrRegister w0 w1
  · exact wf_decodeTransferControl w0 w1
  · exact wf_decodeMemory w0 w1 w2

/-- Settles O4: the class is never ignored, and each class's decoder reads only what its instruction's masks hold. -/
theorem ignoredBitsDoNotMatter : Obligations.IgnoredBitsDoNotMatter := by
  unfold Obligations.IgnoredBitsDoNotMatter
  intro w0 w1 w2 v0 v1 v2 i hw hv hi h0 h1 h2
  have hclass : field v0 30 2 = field w0 30 2 := field_eq_of_mask h0 30 2 (field_firstMask_class i)
  unfold decodeWords at hi ⊢
  rw [if_neg hw] at hi
  rw [if_neg hv, hclass]
  split_ifs at hi ⊢
  · exact decodeBlockMove_eq_of_mask hi h0 h1
  · exact decodeIoOrRegister_eq_of_mask hi h0 h1
  · exact decodeTransferControl_eq_of_mask hi h0 h1
  · exact decodeMemory_eq_of_mask hi h0 h1 h2

/-- Settles O5, word by word. -/
theorem sampleWordsDecode : Obligations.SampleWordsDecode := by
  unfold Obligations.SampleWordsDecode
  refine ⟨?_, ?_, ?_, ?_, ?_, ?_, ?_, ?_, ?_, ?_, ?_, ?_, ?_⟩ <;> decide

/-- Settles O60: the class and OPC choose the form, and `rwOffset` puts A7 above A6 to A0. -/
theorem registerAluFieldsAreRead : Obligations.RegisterAluFieldsAreRead := by
  unfold Obligations.RegisterAluFieldsAreRead
  intro w0 w1 w2 hclass op reg imm
  have hshift : field w0 30 2 = (w0 >>> 30).setWidth 2 := by
    apply BitVec.eq_of_getLsbD_eq
    intro i hi
    simp [field, hi]
  have hfield : field w0 30 2 = 1#2 := by rw [hshift, hclass]; rfl
  have hreg : rwOffset w0 = reg :=
    (by decide : ∀ (a : BitVec 1) (b : BitVec 7), (a ++ b : Byte) = a.setWidth 8 <<< 7 ||| b.setWidth 8) _ _
  have hz : w0 ≠ 0#32 := by
    rintro rfl
    cases hfield
  have hio : decodeWords w0 w1 w2 = decodeIoOrRegister w0 w1 := by
    simp [decodeWords, hz, hfield]
  refine ⟨fun h => ?_, fun h => ?_, fun h => ?_⟩ <;>
    rw [hio, decodeIoOrRegister, show field w0 27 3 = _ from h, hreg] <;> rfl

end Sys2Proof.Claims
end

section
/-! SUPPORT. The frame of a Block Move: what its handlers leave of the core's own elements, and the causes they may
latch (46_phase_engine R294 to R303, 60_exceptions R331). -/

namespace Sys2Proof.Machine

/-! ### Causes newly latched -/

/-- Every cause latched in `t` was latched in `s` or is among `d` (of DSTAT), `x` (of SIST0) and `y` (of SIST1). -/
structure RaisesOnly (d : BitVec 7) (x : Byte) (y : BitVec 3) (s t : State) : Prop where
  dstat : ∀ k, t.dstat.getLsbD k = true → s.dstat.getLsbD k = true ∨ d.getLsbD k = true
  sist0 : ∀ k, t.sist0.getLsbD k = true → s.sist0.getLsbD k = true ∨ x.getLsbD k = true
  sist1 : ∀ k, t.sist1.getLsbD k = true → s.sist1.getLsbD k = true ∨ y.getLsbD k = true

section
variable {d d' : BitVec 7} {x x' : Byte} {y y' : BitVec 3} {s t u : State}

theorem RaisesOnly.of_eq (hdstat : t.dstat = s.dstat) (hsist0 : t.sist0 = s.sist0) (hsist1 : t.sist1 = s.sist1) :
    RaisesOnly d x y s t :=
  ⟨fun _ h => .inl (hdstat ▸ h), fun _ h => .inl (hsist0 ▸ h), fun _ h => .inl (hsist1 ▸ h)⟩

theorem RaisesOnly.trans (h : RaisesOnly d x y s t) (h' : RaisesOnly d x y t u) : RaisesOnly d x y s u :=
  ⟨fun k hk => (h'.dstat k hk).elim (h.dstat k) .inr, fun k hk => (h'.sist0 k hk).elim (h.sist0 k) .inr,
    fun k hk => (h'.sist1 k hk).elim (h.sist1 k) .inr⟩

/-- A state with further causes latched, each among those of the masks. -/
theorem RaisesOnly.of_or (hdstat : t.dstat = s.dstat ||| d') (hsist0 : t.sist0 = s.sist0 ||| x')
    (hsist1 : t.sist1 = s.sist1 ||| y') (hd : d' ||| d = d) (hx : x' ||| x = x) (hy : y' ||| y = y) :
    RaisesOnly d x y s t := by
  have bits {n : Nat} {a a' v v' : BitVec n} (hv : v' = v ||| a') (ha : a' ||| a = a) (k : Nat)
      (hk : v'.getLsbD k = true) : v.getLsbD k = true ∨ a.getLsbD k = true := by
    rw [hv, BitVec.getLsbD_or, Bool.or_eq_true] at hk
    refine hk.imp id fun hk => ?_
    rw [← ha, BitVec.getLsbD_or, hk, Bool.true_or]
  exact ⟨bits hdstat hd, bits hsist0 hx, bits hsist1 hy⟩

end

/-! ### The handlers -/

/-- What a Block Move leaves: `carry` and `icount`, a core that waits for no DMA, and every cause but MA and STO. -/
structure TransferFrame (s t : State) : Prop where
  carry : t.carry = s.carry
  icount : t.icount = s.icount
  waiting : s.waiting ≠ .dma → t.waiting ≠ .dma
  causes : RaisesOnly 0#7 0x80#8 4#3 s t

theorem TransferFrame.of_eq {s t : State} (hcarry : t.carry = s.carry) (hicount : t.icount = s.icount)
    (hwaiting : t.waiting = s.waiting) (hdstat : t.dstat = s.dstat) (hsist0 : t.sist0 = s.sist0)
    (hsist1 : t.sist1 = s.sist1) : TransferFrame s t :=
  ⟨hcarry, hicount, fun h => hwaiting ▸ h, .of_eq hdstat hsist0 hsist1⟩

theorem TransferFrame.refl (s : State) : TransferFrame s s := .of_eq rfl rfl rfl rfl rfl rfl

theorem TransferFrame.trans {s t u : State} (h : TransferFrame s t) (h' : TransferFrame t u) : TransferFrame s u :=
  ⟨h'.carry.trans h.carry, h'.icount.trans h.icount, fun hs => h'.waiting (h.waiting hs), h.causes.trans h'.causes⟩

theorem transferFrame_raise_ma (s : State) : TransferFrame s (raise .ma s) :=
  ⟨rfl, rfl, id, .of_or (BitVec.or_zero.symm) rfl rfl (by decide) (by decide) (by decide)⟩

theorem transferFrame_raise_sto (s : State) : TransferFrame s (raise .sto s) :=
  ⟨rfl, rfl, id, .of_or (BitVec.or_zero.symm) rfl rfl (by decide) (by decide) (by decide)⟩

/-- The device's answer moves the phase, the request, the status and the outside world. -/
theorem transferFrame_applyReply (reply : Config.DevReply) (s : State) : TransferFrame s (applyReply reply s) := by
  rcases applyReply_eq reply s with ⟨r, -, -, e⟩ | ⟨r, -, -, e⟩ | e <;> rw [e]
  all_goals exact .of_eq rfl rfl rfl rfl rfl rfl

theorem transferFrame_commandPhase (s : State) : TransferFrame s (commandPhase s) := by
  rw [commandPhase_eq]
  split
  · have h0 : TransferFrame s (askCommand s.sdid (cdbBytes s)
        { (askPresent s.sdid (cdbRead s)).2 with request := none }).2 := .of_eq rfl rfl rfl rfl rfl rfl
    exact (h0.trans (transferFrame_applyReply _ _)).trans (.of_eq rfl rfl rfl rfl rfl rfl)
  · have h0 : TransferFrame s (askPresent s.sdid (cdbRead s)).2 := .of_eq rfl rfl rfl rfl rfl rfl
    exact (h0.trans (transferFrame_raise_sto _)).trans (.of_eq rfl rfl rfl rfl rfl rfl)

/-- The move of a data phase changes guest memory and the outside world only. -/
theorem moveData_frame (d : Direction) (r : Request) (addr : Word) (n : Nat) (s : State) :
    (moveData d r addr n s).2 =
      { s with mem := (moveData d r addr n s).2.mem, io := (moveData d r addr n s).2.io } := by
  cases d with
  | output =>
    change (dmaRead addr n s).2 = { s with mem := (dmaRead addr n s).2.mem, io := (dmaRead addr n s).2.io }
    rw [(dmaRead_spec s addr n).2]
  | input => exact dmaWrite_frame s addr _

theorem transferFrame_dataComplete (r : Request) (s : State) : TransferFrame s (dataComplete r s) := by
  have h0 : TransferFrame s (statusTaken r s) := .of_eq rfl rfl rfl rfl rfl rfl
  rw [dataComplete_eq]
  split
  · exact h0.trans (.of_eq rfl rfl rfl rfl rfl rfl)
  · exact (h0.trans (transferFrame_raise_ma _)).trans (.of_eq rfl rfl rfl rfl rfl rfl)

/-- The script DMA is in flight inside a data phase only (10_state R34). -/
theorem transferFrame_dataPhase (d : Direction) (s : State) : TransferFrame s (dataPhase d s) := by
  cases hr : s.request with
  | none => rw [dataPhase_none d s hr]; exact .refl s
  | some r =>
    have hdone : TransferFrame (burst r s) (burstDone d r s) := by
      rw [burstDone, burstMove, moveData_frame]
      exact .of_eq rfl rfl rfl rfl rfl rfl
    have hend : TransferFrame (burst r s) (if (burstRequest d r s).pos = (burstRequest d r s).dmaLen then
        dataComplete (burstRequest d r s) (burstDone d r s) else burstDone d r s) := by
      split
      · exact hdone.trans (transferFrame_dataComplete _ _)
      · exact hdone
    rw [dataPhase_some d s r hr]
    exact ⟨hend.carry, hend.icount, fun _ => Waiting.noConfusion,
        ⟨hend.causes.dstat, hend.causes.sist0, hend.causes.sist1⟩⟩

theorem transferFrame_statusPhase (s : State) : TransferFrame s (statusPhase s) := by
  rw [Claims.statusPhase_eq]
  exact .of_eq rfl rfl rfl rfl rfl rfl

theorem transferFrame_messageIn (s : State) : TransferFrame s (messageIn s) := by
  have hsend : TransferFrame s (sendMessages s) := by
    rw [Claims.sendMessages_eq]
    split
    · exact .refl s
    · exact .of_eq rfl rfl rfl rfl rfl rfl
  have haction (t : State) : TransferFrame t (doMsgAction t) := by
    unfold doMsgAction
    split <;> exact .of_eq rfl rfl rfl rfl rfl rfl
  rw [Claims.messageIn_eq]
  split
  · exact hsend
  · exact hsend.trans (haction _)

theorem transferFrame_messageOutLoop (n : Nat) (s : State) : TransferFrame s (messageOutLoop n s) := by
  have hround (t : State) : TransferFrame t (Claims.messageRound t).1 := by
    unfold Claims.messageRound
    dsimp only
    split_ifs <;> exact .of_eq rfl rfl rfl rfl rfl rfl
  induction n generalizing s with
  | zero => exact .refl s
  | succ n ih =>
    rw [Claims.messageOutLoop_succ_eq]
    split_ifs
    · exact .refl s
    · exact (hround s).trans (ih _)
    · exact hround s

theorem transferFrame_runHandler (s : State) : TransferFrame s (runHandler s) := by
  unfold runHandler
  split
  · exact transferFrame_dataPhase .output s
  · exact transferFrame_dataPhase .input s
  · exact transferFrame_commandPhase s
  · exact transferFrame_statusPhase s
  · exact transferFrame_messageOutLoop _ s
  · exact transferFrame_messageIn s

/-- The frame of a Block Move of any form, in every state. -/
theorem transferFrame_blockMove (ph : BitVec 3) (count : Word24) (addr : Word) (s : State) :
    TransferFrame s (blockMove ph count addr s) := by
  have hload : TransferFrame s (loadCount count s) := .of_eq rfl rfl rfl rfl rfl rfl
  unfold blockMove checkedTransfer
  split_ifs
  · exact .of_eq rfl rfl rfl rfl rfl rfl
  · have haddr : TransferFrame s { loadCount count s with dnad := addr } := .of_eq rfl rfl rfl rfl rfl rfl
    exact (haddr.trans (transferFrame_runHandler _)).trans (.of_eq rfl rfl rfl rfl rfl rfl)
  · exact hload.trans (transferFrame_raise_ma _)

end Sys2Proof.Machine
end

section
/-! SUPPORT. The causes of an instruction in the words of the statements, and the gated template without a pending
timeout (44_transfer_control R260 to R263, 60_exceptions R335 to R337). -/

namespace Sys2Proof.Claims

open Sys2Proof.Machine

theorem raise_iid_eq (s : State) : raise .iid s = dmaCause 0x01#7 s := by
  rw [dmaCause, lined_eq]
  rfl

theorem raise_sir_eq (s : State) : raise .sir s = dmaCause 0x04#7 s := by
  rw [dmaCause, lined_eq]
  rfl

theorem raise_ssi_eq (s : State) : raise .ssi s = dmaCause 0x08#7 s := by
  rw [dmaCause, lined_eq]
  rfl

/-- A cause of the first SCSI register stops whatever else is latched (60_exceptions R336). -/
theorem raiseScsi_first (x : Byte) (hx : x ≠ 0#8) (s : State) : raiseScsi x 0#3 s = scsiCause x s := by
  have hstop : s.sist0 ||| x ≠ 0#8 := fun h => hx (BitVec.or_eq_zero_iff.1 h).2
  rw [raiseScsi_eq, decide_eq_true (Or.inl hstop), Bool.or_true, BitVec.or_zero, scsiCause]

theorem raise_ma_eq (s : State) : raise .ma s = scsiCause 0x80#8 s := raiseScsi_first 0x80#8 (by decide) s

theorem raise_udc_eq (s : State) : raise .udc s = scsiCause 0x04#8 s := raiseScsi_first 0x04#8 (by decide) s

/-- With INTF latched the line is high, whatever is enabled (60_exceptions R335). -/
theorem irqValue_of_intf {s : State} (h : s.intf = true) : irqValue s = true := by
  simp [irqValue, h]

section
variable {c : Cond} {s : State} (done : State)

theorem gated_of_taken (hsto : ¬StoPending s) (h : TestsAgree c s) : gated c s done = done := by
  rw [gated, if_neg (mt (stoPending_iff s).2 hsto), if_pos ((testsAgree_iff c s).1 h)]

theorem gated_of_untaken (hsto : ¬StoPending s) (h : ¬TestsAgree c s) : gated c s done = s := by
  rw [gated, if_neg (mt (stoPending_iff s).2 hsto), if_neg (mt (testsAgree_iff c s).2 h)]

end

/-- A fetch moves no element that a test or the delayed stop looks at, and leaves `temp`. -/
theorem afterFetch_frame (i : Instr) (s : State) : afterFetch i s = { s with
    icount := (afterFetch i s).icount, dsps := (afterFetch i s).dsps, dcmd := (afterFetch i s).dcmd
    dsp := (afterFetch i s).dsp } := by
  unfold afterFetch
  split <;> rfl

end Sys2Proof.Claims
end

section
/-! The statements on the Transfer Control instructions and PAD (44_transfer_control, 40_dispatch). -/

namespace Sys2Proof.Claims

open Sys2Proof.Machine

/-- Settles O42: the template answers its taken state. -/
theorem takenTransfers : Obligations.TakenTransfers := by
  unfold Obligations.TakenTransfers
  intro c t s _ hsto htests
  rw [address_eq]
  exact ⟨congrArg _ (gated_of_taken _ hsto htests), congrArg _ (gated_of_taken _ hsto htests),
    congrArg _ (gated_of_taken _ hsto htests)⟩

/-- Settles O43: INT raises SIR; with INTF set the recomputed line is high. -/
theorem takenInterrupts : Obligations.TakenInterrupts := by
  unfold Obligations.TakenInterrupts
  intro c v s _ hsto htests
  refine ⟨congrArg _ ((gated_of_taken _ hsto htests).trans (raise_sir_eq s)),
    congrArg _ ((gated_of_taken _ hsto htests).trans ?_)⟩
  rw [updateIrq, irqValue_of_intf rfl]

/-- Settles O44: the template of every gated instruction answers the state itself. -/
theorem untakenFallsThrough : Obligations.UntakenFallsThrough := by
  unfold Obligations.UntakenFallsThrough
  intro c i s _ hgated hsto htests
  obtain ⟨done, hexec⟩ := exec_gated hgated s
  rw [hexec, gated_of_untaken done hsto htests]

/-- Settles O46: none of the three looks at the selection timeout. -/
theorem padNopAndIllegal : Obligations.PadNopAndIllegal := by
  unfold Obligations.PadNopAndIllegal
  exact fun opc s => ⟨rfl, rfl, congrArg Host.Outcome.next (raise_iid_eq s)⟩

/-- Settles O47: the CALL leaves its `dsp` in `temp` and every element that the tests of the RETURN look at. -/
theorem callThenReturn : Obligations.CallThenReturn := by
  unfold Obligations.CallThenReturn
  intro c c' t s hnop hnop' hsto htests htests'
  obtain ⟨-, hcall, -⟩ := takenTransfers c t s hnop hsto htests
  refine ⟨_, _, hcall, (takenTransfers c' t _ hnop' ?_ ?_).2.2, ?_⟩
  · rw [afterFetch_frame]
    exact hsto
  · rw [afterFetch_frame]
    exact htests'
  · rw [afterFetch_frame]

end Sys2Proof.Claims
end

section
/-! The statements on the I/O instructions (42_io). -/

namespace Sys2Proof.Claims

open Sys2Proof.Machine

theorem ioPrelude_eq (alt : Target) (s : State) : ioPrelude alt s = { s with dnad := address alt s } := by
  rw [ioPrelude, address_eq]

/-- Settles O40: both are the prelude and one update each. -/
theorem waitInstructionsComplete : Obligations.WaitInstructionsComplete := by
  unfold Obligations.WaitInstructionsComplete
  intro tbl alt s
  rw [address_eq]
  exact ⟨rfl, rfl⟩

/-- Settles O41: one case for each flag; the target-mode flag is in none of the updates. -/
theorem setAndClearComplete : Obligations.SetAndClearComplete := by
  unfold Obligations.SetAndClearComplete
  intro f tbl alt s
  obtain ⟨carry, trg, ack, atn⟩ := f
  constructor
  · show execSet _ tbl alt s = _
    rw [execSet, ioPrelude_eq]
    cases carry <;> cases ack <;> cases atn <;> simp [setPhase]
  · show execClear _ tbl alt s = _
    rw [execClear, ioPrelude_eq]
    cases carry <;> cases ack <;> cases atn <;> simp [show ∀ b : Byte, b &&& 0xFF#8 = b from and_ff]

/-- Settles O39: the three branches of the selection, the device's answer depending on the outside world alone. -/
theorem selectCompletes : Obligations.SelectCompletes := by
  unfold Obligations.SelectCompletes
  intro atn src alt s
  dsimp only
  rw [selectedId_eq, address_eq]
  show Host.Outcome.next (selectTarget atn (selectId src s) _) = _
  rw [selectTarget_eq, raise_sto_eq, disconnect_eq_offBus]
  rfl

/-- Settles O54: past the delayed stop the count is loaded, and the phase check fails. -/
theorem phaseMismatchStops : Obligations.PhaseMismatchStops := by
  unfold Obligations.PhaseMismatchStops
  intro i s ph count addr hmove hsto hphase
  rw [exec_blockMove hmove, blockMove, if_neg (mt (stoPending_iff s).2 hsto), checkedTransfer,
    if_neg (by exact hphase), raise_ma_eq]
  rfl

end Sys2Proof.Claims
end

section
/-! SUPPORT. The frame of every instruction, said once: what becomes of `carry`, guest memory, `waiting`, the count of
fetches and the causes (10_state R19, R34, R41, 60_exceptions R331). -/

namespace Sys2Proof.Machine

open Sys2Proof.Claims

/-! ### Accesses of the bank -/

/-- `carry` is out of the bank's reach. -/
theorem sameHidden_withCarry {s t : State} (h : SameHidden s t) (c : Bool) :
    SameHidden { s with carry := c } { t with carry := c } :=
  { h with carry := rfl }

/-- What accesses of the bank leave, a write of ISTAT among them or not: through ISTAT the core may be reset, which
clears `carry` and the count of fetches and stops the interpreter (11_register_bank R64). -/
structure AccessFrame (istat : Bool) (s t : State) : Prop where
  carry : istat = false → t.carry = s.carry
  mem : t.mem = s.mem
  waiting : s.waiting ≠ .dma → t.waiting ≠ .dma
  icount : t.icount = s.icount ∨ t.sstop = true
  causes : RaisesOnly 0x10#7 0x02#8 0#3 s t

section
variable {istat : Bool} {s t u : State}

theorem AccessFrame.of_hidden (h : SameHidden s t) (hc : RaisesOnly 0x10#7 0x02#8 0#3 s t) : AccessFrame istat s t :=
  ⟨fun _ => h.carry, h.mem, fun hs => h.waiting ▸ hs, .inl h.icount, hc⟩

theorem AccessFrame.refl (s : State) : AccessFrame istat s s := .of_hidden (.refl s) (.of_eq rfl rfl rfl)

/-- Accesses out of ISTAT's reach, and then others. -/
theorem AccessFrame.after_hidden (h : SameHidden s t) (hc : RaisesOnly 0x10#7 0x02#8 0#3 s t)
    (h' : AccessFrame istat t u) : AccessFrame istat s u :=
  ⟨fun hi => (h'.carry hi).trans h.carry, h'.mem.trans h.mem, fun hs => h'.waiting (h.waiting ▸ hs),
    h'.icount.imp_left fun e => e.trans h.icount, hc.trans h'.causes⟩

end

theorem RaisesOnly.of_zero {d : BitVec 7} {x : Byte} {y : BitVec 3} {s t : State} (hdstat : t.dstat = 0#7)
    (hsist0 : t.sist0 = 0#8) (hsist1 : t.sist1 = 0#3) : RaisesOnly d x y s t :=
  ⟨fun k h => by simp [hdstat] at h, fun k h => by simp [hsist0] at h, fun k h => by simp [hsist1] at h⟩

/-- A read clears causes at most. -/
theorem raisesOnly_regRead (off : Byte) (s : State) : RaisesOnly 0x10#7 0x02#8 0#3 s (regRead off s).2 := by
  have cleared {n k : Nat} {a b : Prop} (h : (0#n).getLsbD k = true) : a ∨ b := by simp at h
  change RaisesOnly _ _ _ s (regReadEffect (regAt off) s)
  unfold regReadEffect
  split
  · exact ⟨fun _ => cleared, fun _ => .inl, fun _ => .inl⟩
  · exact ⟨fun _ => .inl, fun _ => cleared, fun _ => .inl⟩
  · exact ⟨fun _ => .inl, fun _ => .inl, fun _ => cleared⟩
  · exact .of_eq rfl rfl rfl
  · exact .of_eq rfl rfl rfl

/-- Of the writes but that of ISTAT only one raises a cause: RST, by SCNTL1. -/
theorem raisesOnly_regWrite {off : Byte} (h : off ≠ 0x14#8) (b : Byte) (s : State) :
    RaisesOnly 0x10#7 0x02#8 0#3 s (regWrite off b s) := by
  have histat := mt (regAt_eq_istat_iff off).1 h
  obtain ⟨-, -, -, -, -, -, -, -, -, -, -, -, -, -, -, -, -, -, -, hdstat, hsist1, -, -⟩ :=
    regWriteAt_frame (regAt off) b s histat
  by_cases hscntl1 : regAt off = .scntl1
  · rw [regWrite, hscntl1]
    change RaisesOnly _ _ _ s (writeScntl1 b s)
    unfold writeScntl1
    dsimp only
    split_ifs
    · exact .of_eq rfl rfl rfl
    · exact .of_or (d' := 0#7) (x' := 0x02#8) (y' := 0#3) BitVec.or_zero.symm rfl rfl
        (by decide) (by decide) (by decide)
    · exact .of_eq rfl rfl rfl
  · exact .of_eq hdstat (regWriteAt_sist0 hscntl1 histat b s) hsist1

section
variable {s t : State}

theorem AccessFrame.abrt (h : AccessFrame true s t) : AccessFrame true s (raise .abrt t) :=
  ⟨nofun, h.mem, h.waiting, .inr rfl, h.causes.trans (.of_or (d' := 0x10#7) (x' := 0#8) (y' := 0#3) rfl
    BitVec.or_zero.symm BitVec.or_zero.symm (by decide) (by decide) (by decide))⟩

theorem AccessFrame.intf (h : AccessFrame true s t) : AccessFrame true s (updateIrq { t with intf := false }) :=
  ⟨nofun, h.mem, h.waiting, h.icount, h.causes.dstat, h.causes.sist0, h.causes.sist1⟩

theorem AccessFrame.wake (h : AccessFrame true s t) :
    AccessFrame true s { t with waiting := .running, dsp := t.dnad } :=
  ⟨nofun, h.mem, fun _ => Waiting.noConfusion, h.icount, h.causes.dstat, h.causes.sist0, h.causes.sist1⟩

theorem AccessFrame.reset (h : AccessFrame true s t) : AccessFrame true s (resetCore t) :=
  ⟨nofun, h.mem, fun _ => Waiting.noConfusion, .inr rfl,
    (RaisesOnly.of_zero rfl rfl rfl : RaisesOnly _ _ _ s (resetCore t))⟩

end

/-- The five actions of a write of ISTAT, in its order. -/
theorem accessFrame_writeIstat (b : Byte) (s : State) : AccessFrame true s (writeIstat b s) := by
  have h1 : AccessFrame true s { s with istatHi := b.extractLsb' 4 4 } := ⟨nofun, rfl, id, .inl rfl, .of_eq rfl rfl rfl⟩
  have step {t u : State} {c : Prop} [Decidable c] (h : AccessFrame true s t)
      (hu : AccessFrame true s t → AccessFrame true s u) : AccessFrame true s (if c then u else t) := by
    split_ifs
    · exact hu h
    · exact h
  unfold writeIstat
  dsimp only
  exact step (step (step (step h1 .abrt) .intf) .wake) .reset

theorem accessFrame_regWrite (off b : Byte) (s : State) : AccessFrame (off == 0x14#8) s (regWrite off b s) := by
  by_cases h : off = 0x14#8
  · subst h
    exact accessFrame_writeIstat b s
  · exact .of_hidden (sameHidden_regWrite h b s) (raisesOnly_regWrite h b s)

/-- The six offsets after ISTAT ignore writes. -/
theorem ignoresWrite_after_istat : ∀ i : Fin 6, (regAt (0x15#8 + BitVec.ofNat 8 i.val)).ignoresWrite = true := by
  decide

theorem off_add_ofNat_succ (off : Byte) (i : Nat) :
    off + BitVec.ofNat 8 (i + 1) = off + 1#8 + BitVec.ofNat 8 i := by
  rw [BitVec.ofNat_add, BitVec.add_comm (BitVec.ofNat 8 i), ← BitVec.add_assoc]

theorem regWrites_of_ignored (bs : List Byte) (off : Byte) (s : State)
    (h : ∀ i < bs.length, (regAt (off + BitVec.ofNat 8 i)).ignoresWrite = true) : regWrites off bs s = s := by
  induction bs generalizing off with
  | nil => rfl
  | cons b bs ih =>
    have hfirst : (regAt off).ignoresWrite = true := by simpa using h 0 (Nat.zero_lt_succ _)
    rw [regWrites_cons, regWrite_of_ignoresWrite hfirst]
    refine ih _ fun i hi => ?_
    have hnext := h (i + 1) (Nat.succ_lt_succ hi)
    rwa [off_add_ofNat_succ] at hnext

/-- The offset `off + i` is ISTAT for some `i` below `n + 1`, but not for `i = 0`. -/
theorem istat_after {off : Byte} (h : off ≠ 0x14#8) (n : Nat) :
    decide ((0x14#8 - off).toNat < n + 1) = decide ((0x14#8 - (off + 1#8)).toNat < n) := by
  have : (0x14#8 - off).toNat = (0x14#8 - (off + 1#8)).toNat + 1 := by bv_omega
  rw [this, decide_eq_decide]
  exact Nat.succ_lt_succ_iff

/-- The writes of a LOAD: once ISTAT is written, the rest is ignored. -/
theorem accessFrame_regWrites {bs : List Byte} (hlen : bs.length ≤ 7) (off : Byte) (s : State) :
    AccessFrame (decide ((0x14#8 - off).toNat < bs.length)) s (regWrites off bs s) := by
  induction bs generalizing off s with
  | nil => exact .refl s
  | cons b bs ih =>
    rw [regWrites_cons]
    by_cases h : off = 0x14#8
    · subst h
      rw [regWrites_of_ignored bs (0x14#8 + 1#8) _ fun i hi =>
        ignoresWrite_after_istat ⟨i, by rw [List.length_cons] at hlen; omega⟩]
      exact accessFrame_regWrite 0x14#8 b s
    · rw [List.length_cons, istat_after h]
      exact .after_hidden (sameHidden_regWrite h b s) (raisesOnly_regWrite h b s)
        (ih (Nat.le_of_succ_le hlen) _ _)

theorem raisesOnly_regReads (off : Byte) (n : Nat) (s : State) :
    RaisesOnly 0x10#7 0x02#8 0#3 s (regReads off n s).2 := by
  induction n generalizing off s with
  | zero => exact .of_eq rfl rfl rfl
  | succ n ih => exact (raisesOnly_regRead off s).trans (ih (off + 1#8) (regRead off s).2)

/-! ### The operators -/

/-- Only the shifts and the additions write the carry (43_regalu R218). -/
theorem aluResult_carry {op : AluOp} (h : writesCarry (.ofFs op 0#8 0#8) = false) (a b : Byte) (c : Bool) :
    (aluResult op a b c).2 = c := by
  cases op with
  | mov | or | xor | and => rfl
  | shl | shr | add | adc => cases h

/-- Whether an ALU instruction writes the carry is told by its operator. -/
theorem writesCarry_alu (op : AluOp) (reg imm : Byte) (src : RmSource) :
    writesCarry (.ofFs op reg imm) = writesCarry (.ofFs op 0#8 0#8) ∧
    writesCarry (.ofTs op reg imm) = writesCarry (.ofFs op 0#8 0#8) ∧
    writesCarry (.ofRm op reg src) = writesCarry (.ofFs op 0#8 0#8) := by
  cases op <;> exact ⟨rfl, rfl, rfl⟩

/-- The first operand of TS and RM is read by the bank or not at all. -/
theorem aluFirst_frame (op : AluOp) (reg : Byte) (s : State) :
    SameHidden s (aluFirst op reg s).2 ∧ RaisesOnly 0x10#7 0x02#8 0#3 s (aluFirst op reg s).2 := by
  unfold aluFirst
  split_ifs
  · exact ⟨.refl s, .of_eq rfl rfl rfl⟩
  · exact ⟨sameHidden_regRead reg s, raisesOnly_regRead reg s⟩

/-! ### Every instruction -/

/-- The causes that an instruction may latch, in DSTAT, SIST0 and SIST1: of its own accord (60_exceptions R331), or
through the bank. -/
def latchable : Instr → BitVec 7 × Byte × BitVec 3
  | .tcIllegal _ => (0x01#7, 0#8, 0#3)
  | .int _ _ => (0x04#7, 0#8, 0#3)
  | .select _ _ _ => (0#7, 0#8, 4#3)
  | .move _ _ _ | .moveInd _ _ _ | .moveTbl _ _ => (0#7, 0x80#8, 4#3)
  | _ => (0x10#7, 0x02#8, 0#3)

/-- What an instruction leaves of the elements that several statements speak about. -/
structure ExecFrame (i : Instr) (s t : State) : Prop where
  carry : writesCarry i = false → writesIstat i = false → t.carry = s.carry
  mem : mayStore i = false → t.mem = s.mem
  waiting : s.waiting ≠ .dma → t.waiting ≠ .dma
  icount : t.icount = s.icount ∨ t.sstop = true
  causes : RaisesOnly (latchable i).1 (latchable i).2.1 (latchable i).2.2 s t

section
variable {i : Instr} {s t : State}

/-- Bank accesses from a state whose carry alone may be new. -/
theorem ExecFrame.of_access {c istat : Bool} (h : AccessFrame istat { s with carry := c } t)
    (hl : latchable i = (0x10#7, 0x02#8, 0#3)) (hi : writesIstat i = istat)
    (hc : writesCarry i = false → c = s.carry) : ExecFrame i s t where
  carry hw hn := (h.carry (hi ▸ hn)).trans (hc hw)
  mem _ := h.mem
  waiting := h.waiting
  icount := h.icount
  causes := by
    rw [hl]
    exact ⟨h.causes.dstat, h.causes.sist0, h.causes.sist1⟩

/-- An instruction that latches nothing. -/
theorem ExecFrame.of_quiet (hcarry : writesCarry i = false → t.carry = s.carry)
    (hmem : mayStore i = false → t.mem = s.mem) (hw : s.waiting ≠ .dma → t.waiting ≠ .dma) (hn : t.icount = s.icount)
    (hdstat : t.dstat = s.dstat) (hsist0 : t.sist0 = s.sist0) (hsist1 : t.sist1 = s.sist1) : ExecFrame i s t :=
  ⟨fun h _ => hcarry h, hmem, hw, .inl hn, .of_eq hdstat hsist0 hsist1⟩

theorem ExecFrame.refl (i : Instr) (s : State) : ExecFrame i s s :=
  .of_quiet (fun _ => rfl) (fun _ => rfl) id rfl rfl rfl rfl

/-- The gated template stops, does nothing, or answers the taken state. -/
theorem ExecFrame.gated (c : Cond) (h : ExecFrame i s t) : ExecFrame i s (gated c s t) := by
  unfold Machine.gated
  split_ifs
  · exact .of_quiet (fun _ => rfl) (fun _ => rfl) id rfl rfl rfl rfl
  · exact h
  · exact .refl i s

theorem ExecFrame.of_transfer (h : TransferFrame s t) (hl : latchable i = (0#7, 0x80#8, 4#3))
    (hm : mayStore i = true) : ExecFrame i s t :=
  ⟨fun _ _ => h.carry, fun hn => absurd (hm.symm.trans hn) (by decide), h.waiting, .inl h.icount, hl ▸ h.causes⟩

end

theorem execFrame_ofFs (op : AluOp) (reg imm : Byte) (s : State) :
    ExecFrame (.ofFs op reg imm) s (aluFromSfbr op reg imm s) := by
  refine .of_access (accessFrame_regWrite reg _ _) (by cases op <;> rfl) (by cases op <;> rfl) fun h => ?_
  exact aluResult_carry ((writesCarry_alu op reg imm .sfbr).1.symm.trans h) _ _ _

theorem execFrame_ofTs (op : AluOp) (reg imm : Byte) (s : State) :
    ExecFrame (.ofTs op reg imm) s (aluToSfbr op reg imm s) := by
  obtain ⟨hidden, hcauses⟩ := aluFirst_frame op reg s
  refine .of_access (c := (aluToSfbr op reg imm s).carry) (istat := false)
    ⟨fun _ => rfl, hidden.mem, fun h => hidden.waiting ▸ h, .inl hidden.icount,
      hcauses.dstat, hcauses.sist0, hcauses.sist1⟩ (by cases op <;> rfl) (by cases op <;> rfl) fun h => ?_
  exact (aluResult_carry ((writesCarry_alu op reg imm .sfbr).2.1.symm.trans h) _ _ _).trans hidden.carry

theorem execFrame_ofRm (op : AluOp) (reg : Byte) (src : RmSource) (s : State) :
    ExecFrame (.ofRm op reg src) s (aluModify op reg src s) := by
  obtain ⟨hidden, hcauses⟩ := aluFirst_frame op reg s
  have haccess (r : Byte) (c : Bool) : AccessFrame (reg == 0x14#8) { s with carry := c }
      (regWrite reg r { (aluFirst op reg s).2 with carry := c }) :=
    .after_hidden (sameHidden_withCarry hidden c) ⟨hcauses.dstat, hcauses.sist0, hcauses.sist1⟩
      (accessFrame_regWrite reg _ _)
  refine .of_access (haccess _ _) (by cases op <;> rfl) (by cases op <;> rfl) fun h => ?_
  exact (aluResult_carry ((writesCarry_alu op reg 0#8 src).2.2.symm.trans h) _ _ _).trans hidden.carry

/-- A selection: connected already, the target present, or a selection timeout. -/
theorem execFrame_select (atn : Bool) (src : IdSource) (alt : Target) (s : State) :
    ExecFrame (.select atn src alt) s (selectTarget atn (selectId src s)
      { ioPrelude alt s with sdid := selectId src s, selAtn := atn }) := by
  rw [selectTarget_eq]
  split
  case isTrue => exact .of_quiet (fun _ => rfl) (fun _ => rfl) id rfl rfl rfl rfl
  case isFalse =>
    split
    case isTrue => exact .of_quiet (fun _ => rfl) (fun _ => rfl) (fun _ => Waiting.noConfusion) rfl rfl rfl rfl
    case isFalse =>
      refine ⟨fun _ _ => rfl, fun _ => rfl, id, .inl rfl, ?_⟩
      change RaisesOnly 0#7 0#8 4#3 s _
      exact .of_or (d' := 0#7) (x' := 0#8) (y' := 4#3) BitVec.or_zero.symm rfl rfl rfl rfl rfl

/-- SET and CLEAR move `dnad`, `socl`, the phase, and `carry` if its flag is set. -/
theorem execFrame_set (f : IoFlags) (tbl : Option Word24) (alt : Target) {s t : State}
    (h : exec (.set f tbl alt) s = .next t) : ExecFrame (.set f tbl alt) s t := by
  rw [(setAndClearComplete f tbl alt s).1] at h
  cases h
  exact .of_quiet (fun hc => by rw [show f.carry = false from hc, Bool.or_false]) (fun _ => rfl) id rfl rfl rfl rfl

theorem execFrame_clear (f : IoFlags) (tbl : Option Word24) (alt : Target) {s t : State}
    (h : exec (.clear f tbl alt) s = .next t) : ExecFrame (.clear f tbl alt) s t := by
  rw [(setAndClearComplete f tbl alt s).2] at h
  cases h
  refine .of_quiet (fun hc => ?_) (fun _ => rfl) id rfl rfl rfl rfl
  rw [show f.carry = false from hc, Bool.not_false, Bool.and_true]

theorem exec_moveMemory (n : Word24) (src dst : Word) (s : State) : exec (.moveMemory n src dst) s =
    .next (dmaWrite dst (dmaRead src n.toNat { s with dsp := s.dsp + 4#32 }).1
      (dmaRead src n.toNat { s with dsp := s.dsp + 4#32 }).2) := rfl

theorem execFrame_moveMemory (n : Word24) (src dst : Word) {s t : State}
    (h : exec (.moveMemory n src dst) s = .next t) : ExecFrame (.moveMemory n src dst) s t := by
  rw [exec_moveMemory, dmaWrite_frame, (dmaRead_spec _ _ _).2] at h
  cases h
  exact .of_quiet (fun _ => rfl) nofun id rfl rfl rfl rfl

/-- The frame of every instruction, in every state. -/
theorem exec_frame {i : Instr} {s t : State} (h : exec i s = .next t) : ExecFrame i s t := by
  cases i using Instr.aluCases with
  | fs op reg imm => rw [exec_ofFs] at h; cases h; exact execFrame_ofFs op reg imm s
  | ts op reg imm => rw [exec_ofTs] at h; cases h; exact execFrame_ofTs op reg imm s
  | rm op reg src => rw [exec_ofRm] at h; cases h; exact execFrame_ofRm op reg src s
  | moveInd ph count ptr => cases h; exact .of_transfer (transferFrame_blockMove _ _ _ s) rfl rfl
  | moveTbl ph off => cases h; exact .of_transfer (transferFrame_blockMove _ _ _ s) rfl rfl
  | move ph count addr => cases h; exact .of_transfer (transferFrame_blockMove _ _ _ s) rfl rfl
  | select atn id alt => cases h; exact execFrame_select atn id alt s
  | waitDisconnect tbl alt =>
    cases h; exact .of_quiet (fun _ => rfl) (fun _ => rfl) (fun _ => Waiting.noConfusion) rfl rfl rfl rfl
  | waitReselect tbl alt =>
    cases h; exact .of_quiet (fun _ => rfl) (fun _ => rfl) (fun _ => Waiting.noConfusion) rfl rfl rfl rfl
  | set f tbl alt => exact execFrame_set f tbl alt h
  | clear f tbl alt => exact execFrame_clear f tbl alt h
  | tcIllegal opc =>
    cases h
    refine ⟨fun _ _ => rfl, fun _ => rfl, id, .inl rfl, ?_⟩
    change RaisesOnly 0x01#7 0#8 0#3 s _
    exact .of_or (d' := 0x01#7) (x' := 0#8) (y' := 0#3) rfl BitVec.or_zero.symm BitVec.or_zero.symm rfl rfl rfl
  | pad => cases h; exact .of_quiet (fun _ => rfl) (fun _ => rfl) id rfl rfl rfl rfl
  | nop => cases h; exact .refl _ s
  | jump c a => cases h; exact .gated c (.of_quiet (fun _ => rfl) (fun _ => rfl) id rfl rfl rfl rfl)
  | call c a => cases h; exact .gated c (.of_quiet (fun _ => rfl) (fun _ => rfl) id rfl rfl rfl rfl)
  | ret c => cases h; exact .gated c (.of_quiet (fun _ => rfl) (fun _ => rfl) id rfl rfl rfl rfl)
  | int c v =>
    cases h
    refine .gated c ⟨fun _ _ => rfl, fun _ => rfl, id, .inl rfl, ?_⟩
    change RaisesOnly 0x04#7 0#8 0#3 s _
    exact .of_or (d' := 0x04#7) (x' := 0#8) (y' := 0#3) rfl BitVec.or_zero.symm BitVec.or_zero.symm rfl rfl rfl
  | intfly c v => cases h; exact .gated c (.of_quiet (fun _ => rfl) (fun _ => rfl) id rfl rfl rfl rfl)
  | moveMemory n src dst => exact execFrame_moveMemory n src dst h
  | load reg n a =>
    cases h
    have hlen : (s.mem.bytes (lsAddr a s) n.toNat).length = n.toNat := Memory.bytes_length _ _ _
    have hframe := accessFrame_regWrites (bs := s.mem.bytes (lsAddr a s) n.toNat) (by omega) reg s
    rw [hlen] at hframe
    exact .of_access (c := s.carry) hframe rfl rfl fun _ => rfl
  | store reg n a =>
    cases h
    have hidden := sameHidden_regReads reg n.toNat s
    have hcauses := raisesOnly_regReads reg n.toNat s
    exact ⟨fun _ _ => hidden.carry, nofun, fun hs => hidden.waiting ▸ hs, .inl hidden.icount,
      hcauses.dstat, hcauses.sist0, hcauses.sist1⟩

/-- Every instruction answers a next state. -/
theorem exec_total (i : Instr) (s : State) : ∃ t, exec i s = .next t := by
  cases i using Instr.aluCases with
  | fs op reg imm => exact ⟨_, exec_ofFs op reg imm s⟩
  | ts op reg imm => exact ⟨_, exec_ofTs op reg imm s⟩
  | rm op reg src => exact ⟨_, exec_ofRm op reg src s⟩
  | _ => exact ⟨_, rfl⟩

end Sys2Proof.Machine
end

section
/-! SUPPORT. The frame of a step: `waiting` (10_state R44) and the count of fetches (40_dispatch R169, R172). -/

namespace Sys2Proof.Machine

open Sys2Proof.Claims

variable {s t : State}

/-! ### No script DMA is in flight (10_state R34) -/

theorem fetched_waiting (s : State) : (fetched s).waiting = s.waiting := by
  unfold fetched
  split <;> rfl

theorem endOfInstruction_waiting (s : State) : (endOfInstruction s).waiting = s.waiting := by
  unfold endOfInstruction
  split_ifs <;> rfl

theorem tick_waiting (s : State) : (tick s).waiting = s.waiting := by
  rcases tick_cases s with ⟨-, e⟩ | ⟨-, e⟩ <;> rw [e]
  rfl

theorem hostEvent_waiting (e : HostEvent) (hs : s.waiting ≠ .dma) : (hostEvent e s).waiting ≠ .dma := by
  cases e with
  | read off => exact (sameHidden_regRead off s).waiting ▸ hs
  | write off b => exact (accessFrame_regWrite off b s).waiting hs
  | reset => exact Waiting.noConfusion
  | tick => exact (tick_waiting s) ▸ hs
  | memStore addr b => exact hs

/-- No step leaves a script DMA in flight: a data phase begins and ends one. -/
theorem step_waiting (h : step s = .next t) (hs : s.waiting ≠ .dma) : t.waiting ≠ .dma := by
  rcases step_cases h with ⟨-, -, u, hu, rfl⟩ | ⟨-, -, rfl⟩ | ⟨-, rfl⟩
  · rw [endOfInstruction_waiting]
    exact (exec_frame hu).waiting ((fetched_waiting s).symm ▸ hs)
  · exact hs
  · rcases externalEvent_cases s with ⟨rest, e⟩ | ⟨ev, rest, -, -, e⟩ <;> rw [e]
    · rw [tick_waiting]
      exact hs
    · exact hostEvent_waiting ev (s := { s with inbox := rest }) hs

/-! ### The fetches of an activation -/

/-- A stopped core ends its activation. -/
theorem endOfInstruction_of_stopped (h : t.sstop = true) : (endOfInstruction t).inRun = false := by
  have hrun : running t = false := by rw [running, h]; rfl
  unfold endOfInstruction
  split_ifs <;> rfl

/-- A step inside an activation leaves it, or is one more fetch within the budget. -/
theorem step_leaves_or_counts (hin : s.inRun = true) :
    ∃ t, step s = .next t ∧ (t.inRun = false ∨ t.icount = s.icount + 1 ∧ t.icount ≤ Config.budget) := by
  cases hrun : running s with
  | false => exact ⟨leaveRun s, by rw [step, hin, hrun]; rfl, .inl rfl⟩
  | true =>
    obtain ⟨u, hu⟩ := exec_total (fetchInstr s) (fetched s)
    refine ⟨endOfInstruction u, by rw [step, hin, hrun, hu]; rfl, ?_⟩
    rcases Evolves.endOfInstruction_cases u with ⟨v, -, e⟩ | ⟨e, -, hbudget⟩
    · exact .inl (by rw [e, leaveRun_inRun])
    · rcases (exec_frame hu).icount with hcount | hstop
      · refine .inr ?_
        rw [e]
        exact ⟨hcount.trans (fetched_icount s), hbudget⟩
      · exact .inl (endOfInstruction_of_stopped hstop)

/-- One step, then `k` more. -/
theorem run_succ (k : Nat) (h : step s = .next t) :
    Host.Core.run Sys2Proof.core (k + 1) s = Host.Core.run Sys2Proof.core k t := by
  have hcore : Sys2Proof.core.step s = .next t := h
  simp only [Host.Core.run, hcore]

/-- With `m` fetches left of the budget, `m + 1` steps are enough. -/
theorem run_leaves (m : Nat) (s : State) (h : Config.budget ≤ s.icount + m) :
    ∃ k t, k ≤ m + 1 ∧ Host.Core.run Sys2Proof.core k s = .next t ∧ t.inRun = false := by
  induction m generalizing s with
  | zero =>
    cases hin : s.inRun with
    | false => exact ⟨0, s, Nat.zero_le _, rfl, hin⟩
    | true =>
      obtain ⟨t, ht, hout | ⟨hcount, hbudget⟩⟩ := step_leaves_or_counts hin
      · exact ⟨1, t, Nat.le_refl _, run_succ 0 ht, hout⟩
      · omega
  | succ m ih =>
    cases hin : s.inRun with
    | false => exact ⟨0, s, Nat.zero_le _, rfl, hin⟩
    | true =>
      obtain ⟨t, ht, hout | ⟨hcount, -⟩⟩ := step_leaves_or_counts hin
      · exact ⟨1, t, Nat.succ_le_succ (Nat.zero_le _), run_succ 0 ht, hout⟩
      · obtain ⟨k, u, hk, hrun, hu⟩ := ih t (by omega)
        exact ⟨k + 1, u, Nat.succ_le_succ hk, (run_succ k ht).trans hrun, hu⟩

end Sys2Proof.Machine
end

section
/-! The statements on the protocol bounds, on what instructions leave, and on the end of an activation. -/

namespace Sys2Proof.Claims

open Sys2Proof.Machine

/-- Settles O16: the buffers' bounds by the chains of updates, `waiting` by the frame of a step. -/
theorem stepKeepsProtocolBounds : Obligations.StepKeepsProtocolBounds := by
  unfold Obligations.StepKeepsProtocolBounds
  intro s t hs h
  obtain ⟨hbuffers, hwaiting⟩ := (protocolBounds_iff s).1 hs
  exact (protocolBounds_iff t).2
    ⟨step_keeps Evolves.bufferBounds (fun _ _ _ _ hp => hp.of_eq rfl rfl) h hbuffers, step_waiting h hwaiting⟩

/-- Settles O10: at most the whole budget is left. -/
theorem activationTerminates : Obligations.ActivationTerminates := by
  unfold Obligations.ActivationTerminates
  exact fun s => run_leaves Config.budget s (Nat.le_add_left _ _)

/-- Settles O38, by the frame of an instruction. -/
theorem carryPersists : Obligations.CarryPersists := by
  unfold Obligations.CarryPersists
  exact fun i s t h => (exec_frame h).carry

/-- Settles O53, by the frame of an instruction. -/
theorem otherInstructionsKeepMemory : Obligations.OtherInstructionsKeepMemory := by
  unfold Obligations.OtherInstructionsKeepMemory
  exact fun i s t h => (exec_frame h).mem

/-! ### The sources of the causes -/

section
variable {i : Instr}

theorem latchable_iid (h : (latchable i).1.getLsbD 0 = true) : ∃ opc, i = .tcIllegal opc := by
  unfold latchable at h
  split at h
  case h_1 opc => exact ⟨opc, rfl⟩
  all_goals exact absurd h (by decide)

theorem latchable_sir (h : (latchable i).1.getLsbD 2 = true) : ∃ c v, i = .int c v := by
  unfold latchable at h
  split at h
  case h_2 c v => exact ⟨c, v, rfl⟩
  all_goals exact absurd h (by decide)

theorem latchable_ssi (i : Instr) : (latchable i).1.getLsbD 3 = false := by
  unfold latchable
  split <;> rfl

theorem latchable_ma (h : (latchable i).2.1.getLsbD 7 = true) : isBlockMove i = true := by
  unfold latchable at h
  split at h
  case h_4 | h_5 | h_6 => rfl
  all_goals exact absurd h (by decide)

theorem latchable_udc (i : Instr) : (latchable i).2.1.getLsbD 2 = false := by
  unfold latchable
  split <;> rfl

theorem latchable_sto (h : (latchable i).2.2.getLsbD 2 = true) :
    isBlockMove i = true ∨ ∃ atn src alt, i = .select atn src alt := by
  unfold latchable at h
  split at h
  case h_3 atn src alt => exact .inr ⟨atn, src, alt, rfl⟩
  case h_4 | h_5 | h_6 => exact .inl rfl
  all_goals exact absurd h (by decide)

end

/-- Settles O33: a cause newly latched is among the instruction's own. -/
theorem causesHaveTheirSources : Obligations.CausesHaveTheirSources := by
  unfold Obligations.CausesHaveTheirSources
  intro i s t h
  obtain ⟨hdstat, hsist0, hsist1⟩ := (exec_frame h).causes
  have newly {b : Bool} {p : Prop} (hs : b = false) (ht : b = true ∨ p) : p :=
    ht.resolve_left (ne_true_of_eq_false hs)
  refine ⟨fun hs ht => latchable_iid (newly hs (hdstat 0 ht)), fun hs ht => latchable_sir (newly hs (hdstat 2 ht)),
    fun hs ht => latchable_ma (newly hs (hsist0 7 ht)), fun hs ht => latchable_sto (newly hs (hsist1 2 ht)),
    fun hs => eq_false_of_ne_true fun ht => ?udc, fun hs => eq_false_of_ne_true fun ht => ?ssi⟩
  case udc => exact ne_true_of_eq_false (latchable_udc i) (newly hs (hsist0 2 ht))
  case ssi => exact ne_true_of_eq_false (latchable_ssi i) (newly hs (hdstat 3 ht))

end Sys2Proof.Claims
end

section
/-! SUPPORT. Scratch registers: a read has no effect, a write replaces one lane (11_register_bank R52, R54). -/

namespace Sys2Proof.Claims

open Sys2Proof.Machine

section
variable (j : Fin 10) (k : Fin 4) (s : State)

theorem regAt_scratchOffset : regAt (scratchOffset j k) = .scratch j k := by
  revert j k
  decide

theorem regRead_scratch : regRead (scratchOffset j k) s = (lane s.scratch[j] k, s) := by
  rw [regRead, regAt_scratchOffset]
  rfl

theorem regWrite_scratch (b : Byte) :
    regWrite (scratchOffset j k) b s = { s with scratch := s.scratch.set j (setLane s.scratch[j] k b) } := by
  rw [regWrite, regAt_scratchOffset]
  rfl

theorem aluFirst_scratch (op : AluOp) : (aluFirst op (scratchOffset j k) s).2 = s := by
  unfold aluFirst
  split_ifs
  · rfl
  · rw [regRead_scratch]

theorem exec_ofTs_scratch (op : AluOp) (imm : Byte) : exec (Instr.ofTs op (scratchOffset j k) imm) s =
    .next { s with
      carry := (aluResult op (aluFirst op (scratchOffset j k) s).1 imm s.carry).2
      sfbr := (aluResult op (aluFirst op (scratchOffset j k) s).1 imm s.carry).1 } := by
  rw [exec_ofTs, aluToSfbr]
  simp only [aluFirst_scratch]

theorem exec_ofRm_scratch (op : AluOp) (src : RmSource) : exec (Instr.ofRm op (scratchOffset j k) src) s =
    .next (regWrite (scratchOffset j k)
      (aluResult op (aluFirst op (scratchOffset j k) s).1 (rmOperand src s) s.carry).1
      { s with carry := (aluResult op (aluFirst op (scratchOffset j k) s).1 (rmOperand src s) s.carry).2 }) := by
  rw [exec_ofRm, aluModify]
  simp only [aluFirst_scratch]

/-- The other lanes of a register, one of whose lanes is replaced. -/
theorem lane_setLane_of_ne (v : Word) (b : Byte) (k' : Fin 4) (h : k' ≠ k) :
    lane (setLane v k b) k' = lane v k' :=
  lane_setLane_ne v b (by omega) (Fin.val_ne_of_ne h)

/-- Writing what is read changes nothing. -/
theorem regWrite_regRead_scratch (m : Memory) :
    regWrite (scratchOffset j k) (lane s.scratch[j] k) { s with mem := m } = { s with mem := m } := by
  have hself : s.scratch.set j (setLane s.scratch[j] k (lane s.scratch[j] k)) = s.scratch := by
    rw [setLane_lane _ _ (by omega)]
    exact Vector.set_getElem_self j.isLt
  rw [regWrite_scratch, hself]

end

/-- Settles O37: each form is one write of the register's lane or of `sfbr`, and the carry. -/
theorem aluOnScratchFrame : Obligations.AluOnScratchFrame := by
  unfold Obligations.AluOnScratchFrame
  intro op j k imm src s
  have write {c : Bool} {r : Byte} {i : Instr}
      (h : exec i s = .next (regWrite (scratchOffset j k) r { s with carry := c })) :
      ∃ (c : Bool) (v : Word), exec i s = .next { s with carry := c, scratch := s.scratch.set j v } ∧
        ∀ k' : Fin 4, k' ≠ k → lane v k' = lane s.scratch[j] k' :=
    ⟨c, setLane s.scratch[j] k r, by rw [h, regWrite_scratch], lane_setLane_of_ne k s.scratch[j] r⟩
  exact ⟨write (exec_ofFs op _ imm s), ⟨_, _, exec_ofTs_scratch j k s op imm⟩, write (exec_ofRm_scratch j k s op src)⟩

end Sys2Proof.Claims
end

section
/-! SUPPORT. Runs of bank accesses and of memory bytes, index by index (45_memory_move R281 to R283). -/

namespace Sys2Proof.Claims

open Sys2Proof.Machine

/-- The writes of a LOAD, in order. -/
theorem regWrites_bytes (m : Memory) (off : Byte) (addr : Word) (n : Nat) (s : State) :
    regWrites off (m.bytes addr n) s = (List.range n).foldl (fun u i =>
      regWrite (off + BitVec.ofNat 8 i) (m.byte (addr + BitVec.ofNat 32 i)) u) s := by
  induction n generalizing off addr s with
  | zero => rfl
  | succ n ih =>
    rw [Memory.bytes, regWrites_cons, ih, List.range_succ_eq_map, List.foldl_cons, List.foldl_map]
    simp only [← off_add_ofNat_succ, ← addr_add_ofNat_succ, Nat.succ_eq_add_one, BitVec.add_zero]

/-- The state after `k` reads at ascending offsets. -/
def afterReads (off : Byte) (k : Nat) (s : State) : State :=
  (List.range k).foldl (fun u i => (regRead (off + BitVec.ofNat 8 i) u).2) s

theorem afterReads_succ (off : Byte) (k : Nat) (s : State) :
    afterReads off (k + 1) s = afterReads (off + 1#8) k (regRead off s).2 := by
  unfold afterReads
  rw [List.range_succ_eq_map, List.foldl_cons, List.foldl_map]
  simp only [← off_add_ofNat_succ, Nat.succ_eq_add_one, BitVec.add_zero]

theorem regReads_snd (off : Byte) (n : Nat) (s : State) : (regReads off n s).2 = afterReads off n s := by
  induction n generalizing off s with
  | zero => rfl
  | succ n ih =>
    rw [regReads_succ, afterReads_succ]
    exact ih _ _

/-- What the `i`-th read gives. -/
theorem regReads_get (off : Byte) (n : Nat) (s : State) {i : Nat} (hi : i < n) :
    (regReads off n s).1[i]? = some (regRead (off + BitVec.ofNat 8 i) (afterReads off i s)).1 := by
  induction n generalizing off s i with
  | zero => exact absurd hi (Nat.not_lt_zero i)
  | succ n ih =>
    cases i with
    | zero =>
      rw [show off + BitVec.ofNat 8 0 = off from BitVec.add_zero off]
      rfl
    | succ i =>
      rw [regReads_succ, off_add_ofNat_succ off i, afterReads_succ]
      exact ih (off + 1#8) _ (Nat.lt_of_succ_lt_succ hi)

/-- A run just stored is what a read of its length gives. -/
theorem bytes_store {m : Memory} (hm : m.wf = true) (addr : Word) (bs : List Byte) (hn : bs.length ≤ 2 ^ 32) :
    (m.store addr bs).bytes addr bs.length = bs := by
  refine List.ext_getElem? fun i => ?_
  rcases Nat.lt_or_ge i bs.length with hi | hi
  · rw [Memory.bytes_get _ _ _ _ hi, Memory.byte_store m hm addr bs hn i hi, List.getElem?_eq_getElem hi]
  · rw [List.getElem?_eq_none hi, List.getElem?_eq_none (by rwa [Memory.bytes_length])]

/-- Reading scratch lanes and writing them back changes nothing. -/
theorem regWrites_regReads_scratch (off : Byte) (n : Nat) (s : State) (m : Memory)
    (h : ∀ i < n, ∃ (j : Fin 10) (k : Fin 4), off + BitVec.ofNat 8 i = scratchOffset j k) :
    (regReads off n s).2 = s ∧
      regWrites off (regReads off n s).1 { s with mem := m } = { s with mem := m } := by
  induction n generalizing off with
  | zero => exact ⟨rfl, rfl⟩
  | succ n ih =>
    obtain ⟨j, k, hjk⟩ := h 0 (Nat.zero_lt_succ n)
    obtain rfl : off = scratchOffset j k := (BitVec.add_zero off).symm.trans hjk
    obtain ⟨hreads, hwrites⟩ := ih (scratchOffset j k + 1#8) fun i hi => by
      rw [← off_add_ofNat_succ]
      exact h (i + 1) (Nat.succ_lt_succ hi)
    have hread : regReads (scratchOffset j k) (n + 1) s =
        (lane s.scratch[j] k :: (regReads (scratchOffset j k + 1#8) n s).1,
          (regReads (scratchOffset j k + 1#8) n s).2) := by
      change ((regRead (scratchOffset j k) s).1 :: (regReads _ n (regRead (scratchOffset j k) s).2).1,
        (regReads _ n (regRead (scratchOffset j k) s).2).2) = _
      rw [regRead_scratch]
    rw [hread]
    refine ⟨hreads, ?_⟩
    rw [regWrites_cons, regWrite_regRead_scratch]
    exact hwrites

end Sys2Proof.Claims
end

section
/-! The statements on Memory Move, LOAD and STORE (45_memory_move). -/

namespace Sys2Proof.Claims

open Sys2Proof.Machine

/-- The bytes of a run of fewer than 2^32, and those outside it, after it is stored (20_memory R101). -/
theorem byte_store_cases {m : Memory} (hm : m.wf = true) (addr : Word) {bs : List Byte} {n : Nat} (hn : n ≤ 2 ^ 32)
    (hlen : bs.length = n) :
    (∀ i < n, ∀ b, bs[i]? = some b → (m.store addr bs).byte (addr + BitVec.ofNat 32 i) = b) ∧
    (∀ p, (∀ i < n, p ≠ addr + BitVec.ofNat 32 i) → (m.store addr bs).byte p = m.byte p) := by
  subst hlen
  refine ⟨fun i hi b hb => ?_, fun p hp => Memory.byte_store_of_not_mem m addr bs p hp⟩
  rw [Memory.byte_store m hm addr bs hn i hi]
  exact Option.some.inj ((List.getElem?_eq_getElem hi).symm.trans hb)

/-- Settles O49: the source is read before the destination is written. -/
theorem moveMemoryCopies : Obligations.MoveMemoryCopies := by
  unfold Obligations.MoveMemoryCopies
  intro n src dst s
  refine ⟨exec_moveMemory n src dst s, fun hcanon hsiom hdiom => ?_⟩
  obtain ⟨hin, hout⟩ := byte_store_cases hcanon dst (n := n.toNat) (by omega) (Memory.bytes_length s.mem src n.toNat)
  refine ⟨{ s with dsp := s.dsp + 4#32, mem := s.mem.store dst (s.mem.bytes src n.toNat) }, ?_, rfl,
    fun i hi => hin i hi _ (Memory.bytes_get s.mem src _ i hi), hout⟩
  rw [exec_moveMemory, dmaRead_of_memory (by exact hsiom), dmaWrite_of_memory (by exact hdiom)]
  rfl

/-- Settles O50: the bytes are those of the memory before the writes. -/
theorem loadWritesRegisters : Obligations.LoadWritesRegisters := by
  unfold Obligations.LoadWritesRegisters
  intro reg n a s
  rw [dataAddress_eq, ← regWrites_bytes]
  rfl

theorem exec_store (reg : Byte) (n : BitVec 3) (a : LsAddr) (s : State) : exec (.store reg n a) s =
    .next (memWrite (lsAddr a s) (regReads reg n.toNat s).1 (regReads reg n.toNat s).2) := rfl

/-- Settles O51: the reads leave memory, and then their bytes are stored. -/
theorem storeWritesMemory : Obligations.StoreWritesMemory := by
  unfold Obligations.StoreWritesMemory
  intro reg n a s hcanon
  have hmem : (afterReads reg n.toNat s).mem = s.mem := by
    rw [← regReads_snd]
    exact (sameHidden_regReads reg n.toNat s).mem
  obtain ⟨hin, hout⟩ := byte_store_cases hcanon (lsAddr a s) (n := n.toNat) (by omega) (regReads_length reg n.toNat s)
  refine ⟨{ afterReads reg n.toNat s with mem := s.mem.store (lsAddr a s) (regReads reg n.toNat s).1 }, ?_, rfl, ?_, ?_⟩
  · rw [exec_store, memWrite, regReads_snd, hmem]
  · intro i hi
    rw [dataAddress_eq]
    exact hin i hi _ (regReads_get reg n.toNat s hi)
  · rw [dataAddress_eq]
    exact hout

/-- Settles O52: the LOAD writes back what the STORE read. -/
theorem storeThenLoadScratch : Obligations.StoreThenLoadScratch := by
  unfold Obligations.StoreThenLoadScratch
  intro reg n a s hcanon hscratch
  obtain ⟨hreads, hwrites⟩ := regWrites_regReads_scratch reg n.toNat s
    (s.mem.store (lsAddr a s) (regReads reg n.toNat s).1) hscratch
  refine ⟨{ s with mem := s.mem.store (lsAddr a s) (regReads reg n.toNat s).1 }, ?_, ?_⟩
  · rw [exec_store, hreads]
    rfl
  · have hbytes := bytes_store hcanon (lsAddr a s) (regReads reg n.toNat s).1 (by rw [regReads_length]; omega)
    rw [regReads_length] at hbytes
    change Host.Outcome.next (regWrites reg ((s.mem.store (lsAddr a s) (regReads reg n.toNat s).1).bytes
      (lsAddr a s) n.toNat) _) = _
    rw [hbytes, hwrites]

end Sys2Proof.Claims
end

section
/-! SUPPORT. The fetch: the words at `dsp` are the bytes that the decoder takes (40_dispatch R161, 20_memory R103). -/

namespace Sys2Proof

/-! ### Decoding three words (30_encoding R130) -/

theorem instrBytes_eq_four {w0 : Word} (h : instrBytes w0 = 4) : w0 = 0#32 := by
  unfold instrBytes at h
  split at h
  case isTrue hz => exact hz
  case isFalse => split at h <;> cases h

theorem field_ne_of_instrBytes_eight {w0 : Word} (h : instrBytes w0 = 8) : field w0 29 3 ≠ 6#3 := by
  intro hf
  unfold instrBytes at h
  rw [if_pos hf] at h
  split at h <;> cases h

/-- The class of Memory Move and Load/Store is the one left. -/
theorem class_three_of_ne : ∀ top : Byte, top.extractLsb' 6 2 ≠ 0#2 → top.extractLsb' 6 2 ≠ 1#2 →
    top.extractLsb' 6 2 ≠ 2#2 → top.extractLsb' 5 3 ≠ 6#3 → top.getLsbD 5 = true := by decide

/-- A third word is looked at by a Memory Move only. -/
theorem decodeWords_of_eight {w0 : Word} (h : instrBytes w0 = 8) (w1 w2 w2' : Word) :
    decodeWords w0 w1 w2 = decodeWords w0 w1 w2' := by
  have hbit := class_three_of_ne (field w0 24 8)
  rw [extractLsb'_field_top w0 6 2 (by decide), extractLsb'_field_top w0 5 3 (by decide),
    getLsbD_field_top w0 5 (by decide)] at hbit
  unfold decodeWords
  split_ifs with hz h0 h1 h2
  · rfl
  · rfl
  · rfl
  · rfl
  · unfold decodeMemory
    have h29 : bitAt w0 29 = true := hbit h0 h1 h2 (field_ne_of_instrBytes_eight h)
    rw [if_pos h29, if_pos h29]

/-- Twelve bytes always decode, and by their three words. -/
theorem decode_of_words {bytes rest0 rest1 rest2 : List Byte} {w0 w1 w2 : Word}
    (h0 : takeWord bytes = some (w0, rest0)) (h1 : takeWord rest0 = some (w1, rest1))
    (h2 : takeWord rest1 = some (w2, rest2)) : ∃ rest, decode bytes = .ok (decodeWords w0 w1 w2, rest) := by
  unfold decode
  rw [h0]
  dsimp only
  split_ifs with hfour height
  · obtain rfl := instrBytes_eq_four hfour
    exact ⟨rest0, rfl⟩
  · rw [h1]
    exact ⟨rest1, by rw [decodeWords_of_eight height w1 w2 0#32]⟩
  · rw [h1]
    dsimp only
    rw [h2]
    exact ⟨rest2, rfl⟩

/-- Only the zero word is PAD. -/
theorem decodeWords_eq_pad_iff (w0 w1 w2 : Word) : decodeWords w0 w1 w2 = .pad ↔ w0 = 0#32 := by
  constructor
  · intro h
    obtain ⟨r, hrow, hmnemonic, hbytes⟩ := Claims.decoderFollowsOpcodeTable w0 w1 w2
    have hpad : ∀ r ∈ opcodeRows, r.mnemonic = "PAD" → r.bytes = 4 := by decide
    rw [h] at hmnemonic
    exact instrBytes_eq_four (hbytes ▸ hpad r (List.mem_of_find?_eq_some hrow) hmnemonic)
  · rintro rfl
    rfl

theorem field_wordOfBytes_top (b0 b1 b2 b3 : Byte) : field (wordOfBytes b0 b1 b2 b3) 24 8 = b3 := by
  unfold field wordOfBytes
  apply BitVec.eq_of_getLsbD_eq
  intro k hk
  simp only [BitVec.getLsbD_append, BitVec.getLsbD_extractLsb']
  simp [hk, show ¬24 + k < 8 by omega, show ¬24 + k - 8 < 8 by omega,
    show ¬24 + k - 8 - 8 < 8 by omega, show 24 + k - 8 - 8 - 8 = k by omega]

end Sys2Proof

namespace Sys2Proof.Machine

/-! ### The fetch -/

theorem takeWord_bytes (m : Memory) (a : Word) (n : Nat) :
    takeWord (m.bytes a (n + 4)) = some (m.word a, m.bytes (a + 4#32) n) := by
  have h2 : a + 1#32 + 1#32 = a + 2#32 := BitVec.add_assoc a 1#32 1#32
  have h3 : a + 2#32 + 1#32 = a + 3#32 := BitVec.add_assoc a 2#32 1#32
  have h4 : a + 3#32 + 1#32 = a + 4#32 := BitVec.add_assoc a 3#32 1#32
  simp only [Memory.bytes, h2, h3, h4]
  rfl

/-- The decoder on the bytes at `dsp` is the fetch. -/
theorem decode_fetch (s : State) : ∃ rest, decode (s.mem.bytes s.dsp 12) = .ok (fetchInstr s, rest) := by
  have hthird : s.dsp + 4#32 + 4#32 = s.dsp + 8#32 := BitVec.add_assoc s.dsp 4#32 4#32
  have h := decode_of_words (takeWord_bytes s.mem s.dsp 8) (takeWord_bytes s.mem (s.dsp + 4#32) 4)
    (takeWord_bytes s.mem (s.dsp + 4#32 + 4#32) 0)
  rwa [hthird] at h

theorem fetchInstr_of_decode {s : State} {i : Instr} {rest : List Byte}
    (h : decode (s.mem.bytes s.dsp 12) = .ok (i, rest)) : fetchInstr s = i := by
  obtain ⟨rest', h'⟩ := decode_fetch s
  rw [h] at h'
  cases h'
  rfl

/-- What a fetch leaves, in the statements' words. -/
theorem afterFetch_fetchInstr (s : State) : Claims.afterFetch (fetchInstr s) s = fetched s := by
  have hpad : fetchInstr s = .pad ↔ fetchWord s = 0#32 := decodeWords_eq_pad_iff _ _ _
  have hdcmd : (fetchWord s).extractLsb' 24 8 = s.mem.byte (s.dsp + 3#32) := field_wordOfBytes_top _ _ _ _
  unfold Claims.afterFetch fetched
  rw [Claims.wordAt_eq, hdcmd]
  exact if_congr hpad rfl rfl

/-- A step of a running activation, once the fetched instruction's answer is known. -/
theorem step_of_exec {s t : State} (hin : s.inRun = true) (hrun : running s = true)
    (h : exec (fetchInstr s) (fetched s) = .next t) : step s = .next (endOfInstruction t) := by
  rw [step, hin, hrun, h]
  rfl

theorem running_iff (s : State) : running s = true ↔ s.sstop = false ∧ s.waiting = .running := by
  rw [running, Bool.and_eq_true, Bool.not_eq_true', decide_eq_true_iff]

theorem running_eq_false_iff (s : State) : running s = false ↔ s.sstop = true ∨ s.waiting ≠ .running := by
  rw [← Bool.not_eq_true, running_iff, not_and_or, Bool.not_eq_false]

/-- The run loop's checks in the statements' words (40_dispatch R165, R168 to R170). -/
theorem endOfInstruction_eq (t : State) : endOfInstruction t =
    if 10000 < t.icount ∧ t.waiting = .running then { Claims.offBus (Claims.scsiCause 0x04#8 t) with inRun := false }
    else if t.sstop = true ∨ t.waiting ≠ .running then { t with inRun := false }
    else if t.dcntl.getLsbD 4 = true then { Claims.dmaCause 0x08#7 t with inRun := false }
    else if t.yield = true then { t with inRun := false }
    else t := by
  rw [endOfInstruction, Claims.raise_udc_eq, Claims.disconnect_eq_offBus, Claims.raise_ssi_eq]
  exact if_congr Iff.rfl rfl (if_congr (running_eq_false_iff t) rfl rfl)

end Sys2Proof.Machine
end

section
/-! The statements on steps and activations (40_dispatch), and on the host's accesses (10_state R10). -/

namespace Sys2Proof.Claims

open Sys2Proof.Machine

/-- Settles O6: what the bytes at `dsp` decode to is what the fetch finds. -/
theorem stepRunsDecodedInstruction : Obligations.StepRunsDecodedInstruction := by
  unfold Obligations.StepRunsDecodedInstruction
  intro s i rest hin hstop hwait hdecode
  obtain rfl := fetchInstr_of_decode hdecode
  obtain ⟨t, ht⟩ := exec_total (fetchInstr s) (fetched s)
  exact ⟨t, afterFetch_fetchInstr s ▸ ht, step_of_exec hin ((running_iff s).2 ⟨hstop, hwait⟩) ht⟩

/-- Settles O7: the placed bytes are read back, and O6 speaks about what they decode to. -/
theorem placedInstructionRuns : Obligations.PlacedInstructionRuns := by
  unfold Obligations.PlacedInstructionRuns
  intro s nbits w i hcanon hword
  have hbytes : (s.withFetchWord nbits w).mem.bytes (s.withFetchWord nbits w).dsp 12 = tableBytes nbits w :=
    bytes_store hcanon s.dsp (tableBytes nbits w) (by decide : 12 ≤ 2 ^ 32)
  unfold decodeTableWord at hword
  split at hword
  case h_1 j rest hdecode =>
    cases hword
    exact stepRunsDecodedInstruction _ _ rest rfl rfl rfl (by rw [hbytes, hdecode])
  case h_2 => cases hword

/-- Settles O8: the event is a tick, and `Run()` begins in a running core only. -/
theorem tickStartsActivation : Obligations.TickStartsActivation := by
  unfold Obligations.TickStartsActivation
  intro s rest hout hnext
  rw [step_of_not_inRun hout, externalEvent_cons hnext, hostEvent, tick]
  refine ⟨fun h => ?_, fun h => ?_⟩
  · rw [if_pos ((running_iff { s with inbox := rest }).2 h)]
    rfl
  · rw [(running_eq_false_iff { s with inbox := rest }).2 h, if_neg Bool.false_ne_true]

/-- Settles O9, by the checks of the run loop. -/
theorem runLoopChecks : Obligations.RunLoopChecks := by
  unfold Obligations.RunLoopChecks
  intro s t hin hstop hwait h
  rw [step_of_exec hin ((running_iff s).2 ⟨hstop, hwait⟩) h, endOfInstruction_eq]

/-- Settles O13: each event is the operation of its name. -/
theorem hostAccessesUseTheBank : Obligations.HostAccessesUseTheBank := by
  unfold Obligations.HostAccessesUseTheBank
  intro s rest hout
  have land {e : HostEvent} (h : s.inbox = e :: rest) : step s = .next (hostEvent e { s with inbox := rest }) := by
    rw [step_of_not_inRun hout, externalEvent_cons h]
  refine ⟨fun off b h => land h, fun off h => land h, fun a b h hcanon => ?_⟩
  obtain ⟨hin, hothers⟩ := byte_store_cases (bs := [b]) (n := 1) hcanon a (by decide) rfl
  refine ⟨_, land h, rfl, ?_, fun p hp => hothers p fun i hi => ?_⟩
  · have := hin 0 Nat.zero_lt_one b rfl
    rwa [show a + BitVec.ofNat 32 0 = a from BitVec.add_zero a] at this
  · rwa [Nat.lt_one_iff.1 hi, show a + BitVec.ofNat 32 0 = a from BitVec.add_zero a]

end Sys2Proof.Claims
end

section
/-! SUPPORT. The data phase in the words of its statement (46_phase_engine R296, R297). -/

namespace Sys2Proof.Claims

open Sys2Proof.Machine

theorem portBytes_congr {s t : State} (addr : Word) (n : Nat) (h : s.io = t.io) :
    (portBytes addr n s).1 = (portBytes addr n t).1 ∧ (portBytes addr n s).2.io = (portBytes addr n t).2.io := by
  induction n generalizing addr s t with
  | zero => exact ⟨rfl, h⟩
  | succ n ih =>
    obtain ⟨hbytes, hio⟩ := ih (s := (portRead (portOf addr) s).2) (t := (portRead (portOf addr) t).2)
      (addr + 1#32) (by simp [portRead, h])
    exact ⟨congrArg₂ List.cons (by simp [h]) hbytes, hio⟩

/-- What a DMA read gives and records depends on memory, the outside world and the mode bits only. -/
theorem dmaRead_congr {s t : State} (addr : Word) (n : Nat) (hmem : s.mem = t.mem) (hmode : s.dmode = t.dmode)
    (hio : s.io = t.io) :
    (dmaRead addr n s).1 = (dmaRead addr n t).1 ∧ (dmaRead addr n s).2.io = (dmaRead addr n t).2.io := by
  unfold dmaRead siom
  rw [hmode]
  split
  · exact portBytes_congr addr n hio
  · exact ⟨by rw [hmem], hio⟩

/-- Nothing is left of a count exactly when all of it moved. -/
theorem sub_ofNat_eq_zero_iff {count : Word24} {n : Nat} (hn : n ≤ count.toNat) :
    count - BitVec.ofNat 24 n = 0#24 ↔ count.toNat = n := by
  have hlt := count.isLt
  rw [sub_ofNat count hn, ← BitVec.toNat_inj, BitVec.toNat_ofNat, Nat.mod_eq_of_lt (by omega)]
  simp
  omega

theorem runHandler_data {s : State} {d : Direction}
    (h : s.phase = (match d with | .output => .dataOut | .input => .dataIn)) : runHandler s = dataPhase d s := by
  cases d <;> rw [runHandler, h]

section
variable {d : Direction} {r r' : Request} {s t : State}

/-- The move of Data-Out, whose reads are those of a state with the same memory, mode bits and outside world. -/
theorem burstMove_output (hmem : t.mem = s.mem) (hmode : t.dmode = s.dmode) (hio : t.io = s.io) :
    burstMove .output r t = ({ r with
        buf := r.buf.take r.pos ++ (dmaRead t.dnad (dataCount r t) s).1 ++ r.buf.drop (r.pos + dataCount r t) },
      { burst r t with io := (dmaRead t.dnad (dataCount r t) s).2.io }) := by
  obtain ⟨hbytes, hports⟩ := dmaRead_congr (s := burst r t) t.dnad (dataCount r t) hmem hmode hio
  have hlen := (dmaRead_spec s t.dnad (dataCount r t)).1
  show (r.fill (dmaRead t.dnad (dataCount r t) (burst r t)).1, (dmaRead t.dnad (dataCount r t) (burst r t)).2) = _
  rw [hbytes, (dmaRead_spec _ _ _).2, hports, Request.fill, hlen]

/-- The move of Data-In, whose writes are those of a state with the same memory, mode bits and outside world. -/
theorem burstMove_input (hmem : t.mem = s.mem) (hmode : t.dmode = s.dmode) (hio : t.io = s.io) :
    burstMove .input r t = (r, { burst r t with
      mem := (dmaWrite t.dnad ((r.buf.drop r.pos).take (dataCount r t)) s).mem
      io := (dmaWrite t.dnad ((r.buf.drop r.pos).take (dataCount r t)) s).io }) :=
  Prod.ext rfl (dmaWrite_of_agree (s := burst r t) _ _ hmem hmode hio)

/-- The end of a data phase once its move is known, the device not yet exhausted. -/
theorem dataPhase_of_left (hr : s.request = some r) (hmove : burstMove d r s = ({ r' with pos := r.pos }, t))
    (hleft : r.pos + dataCount r s < r'.buf.length) : dataPhase d s =
      { t with request := some { r' with pos := r.pos + dataCount r s }, waiting := .running } := by
  have hreq : burstRequest d r s = { r' with pos := r.pos + dataCount r s } := by rw [burstRequest, hmove]
  rw [dataPhase_some d s r hr, burstDone, hreq, hmove, if_neg (by exact Nat.ne_of_lt hleft)]

/-- The end of a data phase once its move is known, the device exhausted. -/
theorem dataPhase_of_exhausted (hr : s.request = some r) (hmove : burstMove d r s = ({ r' with pos := r.pos }, t))
    (hend : r.pos + dataCount r s = r'.buf.length) : dataPhase d s =
      { dataComplete { r' with pos := r.pos + dataCount r s }
          { t with request := some { r' with pos := r.pos + dataCount r s } } with waiting := .running } := by
  have hreq : burstRequest d r s = { r' with pos := r.pos + dataCount r s } := by rw [burstRequest, hmove]
  rw [dataPhase_some d s r hr, burstDone, hreq, hmove, if_pos (by exact hend)]

end

end Sys2Proof.Claims
end

section
/-! The statement on the data phases (46_phase_engine R296, R297). -/

namespace Sys2Proof.Claims

open Sys2Proof.Machine

/-- Settles O55: the move in each direction, and then what is left of the request and of the count. -/
theorem dataPhaseMoves : Obligations.DataPhaseMoves := by
  unfold Obligations.DataPhaseMoves
  intro i s ph count addr d hmove hsto hph hphase
  refine ⟨fun hnone => ?none, ?some⟩
  case none =>
    refine exec_blockMove_of_handler hmove hsto hph ?_
    rw [runHandler_data (by exact hphase), dataPhase_none _ _ (by exact hnone)]
  case some =>
    intro r hr hdir hpos n s1 data buf moved told done
    refine exec_blockMove_of_handler hmove hsto hph ?_
    have hle : r.pos + n ≤ r.buf.length := by omega
    have hframe : moved = { s1 with mem := moved.mem, io := moved.io } := by
      cases d with
      | output => rfl
      | input => exact dmaWrite_frame s1 addr ((r.buf.drop r.pos).take n)
    have hwait : moved.waiting = .running := by rw [hframe]
    have hleftover : moved.dbc = count - BitVec.ofNat 24 n := by rw [hframe]
    have hburst : burstMove d r { s with dbc := count, rbc := count, dnad := addr } =
        ({ { r with buf := buf } with pos := r.pos }, { moved with waiting := .dma, rbc := count }) := by
      cases d with
      | output => exact burstMove_output (s := s) rfl rfl rfl
      | input =>
        rw [hframe]
        exact burstMove_input (s := s1) rfl rfl rfl
    have hlen : buf.length = r.buf.length := by
      have hbuf := congrArg (fun m => m.1.buf.length) hburst
      exact hbuf.symm.trans ((moveData_request d r addr n _ hle).2.2)
    rw [runHandler_data (by exact hphase)]
    by_cases hleft : r.pos + n < r.buf.length
    · rw [dataPhase_of_left (by exact hr) hburst (by exact hlen ▸ hleft), if_pos hleft, ← hwait]
      rfl
    · have hend : r.pos + n = buf.length := by omega
      have hout : (if r.dir = .output then buf else []) = (match d with | .output => buf | .input => []) := by
        rw [hdir]
        cases d <;> rfl
      have hdbc : moved.dbc = 0#24 ↔ count.toNat = n := by
        rw [hleftover]
        exact sub_ofNat_eq_zero_iff (Nat.min_le_left _ _)
      rw [dataPhase_of_exhausted (by exact hr) hburst hend, if_neg hleft, dataComplete_eq, statusTaken, hout, ← hwait,
        raise_ma_eq]
      by_cases hall : count.toNat = n
      · rw [if_pos (by exact hdbc.2 hall), if_pos hall]
        rfl
      · rw [if_neg (by exact mt hdbc.1 hall), if_neg hall]
        rfl

end Sys2Proof.Claims
end
